-- ==== Sys2Proof/Word.lean ====
section
/-! DEFINITION. The bit-vector types of the RDT3 Packet Codec: 16-bit registers and checksum words, 8-bit buffer
bytes, one-bit command operands, and the widths of the two address fields. -/

namespace Sys2Proof

/-- A register, checksum or command word: 16 bits (XLEN, CSUM_BITS; spec/00_scope.md R9, spec/10_state.md R19). -/
abbrev Word := BitVec 16

/-- A buffer byte: 8 bits (spec/10_state.md R39). -/
abbrev Byte := BitVec 8

/-- A single-bit operand or packet field: A, S, ack_bit, seq_bit (spec/30_encoding.md R61). -/
abbrev Bit := BitVec 1

/-- A register index: 4 bits (spec/10_state.md R20). -/
abbrev RegIndex := BitVec 4

/-- A buffer address as the host names it: 14 bits, so none is out of range (spec/20_memory.md R42). -/
abbrev BufAddr := BitVec 14

/-- An error code as STATUS.ERR holds it: 3 bits (spec/10_state.md R23). -/
abbrev ErrBits := BitVec 3

/-- The 8-byte magic tag MAGIC[0..7], first wire byte first (spec/00_scope.md R9). -/
abbrev Magic := Vector Byte 8

end Sys2Proof
end

