-- ==== Sys2Proof/Syntax.lean ====
section
/-! DEFINITION. The eight commands of the block, one constructor per row of spec/opcode_table.json, with the operands
spec/30_encoding.md R60 and R61 give them. Operands are single bits or a buffer name by their types, so every term
is a command the encoding admits. -/

namespace Sys2Proof

/-- The two byte buffers (spec/10_state.md R39). -/
inductive Buf where
  | tx
  | rx
  deriving DecidableEq, Repr

/-- The commands (spec/30_encoding.md R62). -/
inductive Instr where
  /-- NOP: do nothing (R93). -/
  | nop
  /-- CSUM with operand B: the checksum of TX or RX (R81). -/
  | csum (b : Buf)
  /-- BUILD with operands A (ack_bit) and S (seq_bit): build a packet in TX (R83). -/
  | build (a q : Bit)
  /-- BUILDACK with operand S: build an ACK packet in TX (R84). -/
  | buildack (q : Bit)
  /-- VERIFY: check the packet in RX (R87). -/
  | verify
  /-- EXTSEQ: extract seq_bit from RX (R88). -/
  | extseq
  /-- EXTACK: extract ack_bit from RX (R89). -/
  | extack
  /-- CLRERR: clear the error record (R94). -/
  | clrerr
  deriving DecidableEq, Repr

/-- The command's name in spec/opcode_table.json. -/
def Instr.mnemonic : Instr → String
  | .nop => "NOP"
  | .csum _ => "CSUM"
  | .build _ _ => "BUILD"
  | .buildack _ => "BUILDACK"
  | .verify => "VERIFY"
  | .extseq => "EXTSEQ"
  | .extack => "EXTACK"
  | .clrerr => "CLRERR"

end Sys2Proof
end

