-- ==== Sys2Proof/Config.lean ====
section
/-! DEFINITION. The parameters of spec/00_scope.md R9, and the two things the spec leaves open in the block: the value
of MAGIC and the buffer bytes drawn at reset. The open ones have no body, so no proof can see a value of them. -/

namespace Sys2Proof.Config

/-- HDR_LEN: magic 8 + checksum 2 + flags 2 (R9). -/
def hdrLen : Nat := 12

/-- LEN_BITS: the width of total_length, flags bits [15:2] (R9). -/
def lenBits : Nat := 14

/-- MAX_PKT_LEN = 2^14 - 1 (R9). -/
def maxPktLen : Nat := 2 ^ lenBits - 1

/-- MAX_PAYLOAD = MAX_PKT_LEN - HDR_LEN = 16371 (R9). -/
def maxPayload : Nat := maxPktLen - hdrLen

/-- BUF_BYTES: bytes in each buffer (R9). -/
def bufBytes : Nat := 16384

/-- MAGIC: an OPEN parameter of the hardware (R9, spec/93_implementation_defined.md U2). Log entry 1. -/
opaque magic : Magic

/-- What the byte at address a of a buffer holds after the reset numbered epoch, until it is written: "an arbitrary value
drawn at reset (a free input)" (spec/10_state.md R41, spec/93_implementation_defined.md U1). Log entry 2. DESIGN CHOICE:
instances have no identifiers (spec/60_exceptions.md R106), so the draw takes none, and two instances at the same epoch hold
the same unwritten bytes; the spec does not say whether they do. Log entry 19, unsafe. -/
opaque resetByte (epoch : Nat) (b : Buf) (a : Nat) : Byte

end Sys2Proof.Config
end

