-- ==== Sys2Proof/WellFormed.lean ====
section
/-! DEFINITION. What the spec lets the host hand over as it stands: the legal command words by the match and mask rows of
spec/30_encoding.md R62 (written from the table, not from the decoder), datagrams that can be presented in RX, and
payloads that fit a packet. A term of Instr has no ill-formed value: its operands are single bits by their types. -/

namespace Sys2Proof

/-- One row of the opcode map (R62): a word belongs to it when it equals `value` under `mask`. -/
structure OpcodeRow where
  mnemonic : String
  value : Word
  mask : Word
  deriving DecidableEq, Repr

/-- The opcode map, in the order of R62 and spec/opcode_table.json. -/
def opcodeMap : List OpcodeRow :=
  [⟨"NOP", 0x0000, 0xFFFF⟩, ⟨"CSUM", 0x1000, 0xFFFE⟩, ⟨"BUILD", 0x2000, 0xFFFC⟩, ⟨"BUILDACK", 0x3000, 0xFFFE⟩,
   ⟨"VERIFY", 0x4000, 0xFFFF⟩, ⟨"EXTSEQ", 0x5000, 0xFFFF⟩, ⟨"EXTACK", 0x6000, 0xFFFF⟩, ⟨"CLRERR", 0x7000, 0xFFFF⟩]

/-- The word matches the row under its mask (R62). -/
def OpcodeRow.admits (r : OpcodeRow) (w : Word) : Bool := w &&& r.mask == r.value

/-- "A word is legal only when it matches a row under that row's mask" (R62). -/
def legalWord (w : Word) : Bool := opcodeMap.any fun r => r.admits w

/-- "A datagram of more than 16383 bytes cannot be presented" (spec/70_reset_and_hazards.md R127). -/
def presentable (d : List Byte) : Bool := decide (d.length ≤ Config.maxPktLen)

/-- A payload that BUILD frames: N <= 16371 (spec/30_encoding.md R68). -/
def payloadFits (p : List Byte) : Bool := decide (p.length ≤ Config.maxPayload)

end Sys2Proof
end

