-- ==== Sys2Proof/Decode.lean ====
section
/-! DEFINITION. The decoder of the 16-bit command word (spec/30_encoding.md R60 to R64), total on every word and rejecting
by name, and the encoder written from the same rows of R62 and R70. -/

namespace Sys2Proof

/-- Why a word is illegal (R64). -/
inductive IllegalReason where
  /-- OP in 0x8..0xF (R62). -/
  | unassignedOpcode (op : BitVec 4)
  /-- A reserved bit is set (R63). -/
  | reservedBitSet
  deriving DecidableEq, Repr

/-- OP, bits [15:12] (R60). -/
def opField (w : Word) : BitVec 4 := w.extractLsb' 12 4

/-- RSV, bits [11:2] (R60). -/
def rsvField (w : Word) : BitVec 10 := w.extractLsb' 2 10

/-- A, bit [1] (R60). -/
def aField (w : Word) : Bit := w.extractLsb' 1 1

/-- S or B, bit [0] (R60). -/
def sField (w : Word) : Bit := w.extractLsb' 0 1

/-- The buffer CSUM's operand B names: 0 = TX, 1 = RX (R61). -/
def bufOfBit (b : Bit) : Buf := if b = 0 then .tx else .rx

/-- Operand B of a buffer (R61). -/
def bitOfBuf : Buf → Bit
  | .tx => 0
  | .rx => 1

/-- The command a word stands for, or why it is illegal. "It is not decoded as the opcode with the bit ignored" (R63). -/
def decode (w : Word) : Except IllegalReason Instr :=
  let alone : Bool := decide (rsvField w = 0 ∧ aField w = 0 ∧ sField w = 0)
  let withS : Bool := decide (rsvField w = 0 ∧ aField w = 0)
  let withAS : Bool := decide (rsvField w = 0)
  match (opField w).toNat with
  | 0 => if alone then .ok .nop else .error .reservedBitSet
  | 1 => if withS then .ok (.csum (bufOfBit (sField w))) else .error .reservedBitSet
  | 2 => if withAS then .ok (.build (aField w) (sField w)) else .error .reservedBitSet
  | 3 => if withS then .ok (.buildack (sField w)) else .error .reservedBitSet
  | 4 => if alone then .ok .verify else .error .reservedBitSet
  | 5 => if alone then .ok .extseq else .error .reservedBitSet
  | 6 => if alone then .ok .extack else .error .reservedBitSet
  | 7 => if alone then .ok .clrerr else .error .reservedBitSet
  | _ => .error (.unassignedOpcode (opField w))

/-- The command's word (R62, R70). -/
def encode : Instr → Word
  | .nop => 0x0000
  | .csum b => 0x1000 ||| (bitOfBuf b).setWidth 16
  | .build a q => 0x2000 ||| (a.setWidth 16 <<< 1) ||| q.setWidth 16
  | .buildack q => 0x3000 ||| q.setWidth 16
  | .verify => 0x4000
  | .extseq => 0x5000
  | .extack => 0x6000
  | .clrerr => 0x7000

/-- The opcode-table word w of nbits bits, read by the decoder. A command is one number of 16 bits written to CMD whole,
so no byte order enters (spec/30_encoding.md R60, spec/20_memory.md R49). Log entry 7. -/
def decodeTableWord (nbits w : Nat) : Option Instr :=
  if nbits ≤ 16 ∧ w < 2 ^ nbits then
    match decode (BitVec.ofNat 16 w) with
    | .ok i => some i
    | .error _ => none
  else none

end Sys2Proof
end

