-- ==== Sys2Proof/Machine/State.lean ====
section
/-! DEFINITION. The state of one block instance as plain data: the registers of spec/10_state.md R21, the two buffers of
R39, the parameter MAGIC, and the host's side of the ports. Also the reasons a step may stop, and the state after reset. -/

namespace Sys2Proof.Machine

/-- The bytes of one buffer written since the last reset, as (address, byte) pairs with strictly rising addresses below
16384. An unlisted address has NO written value; a read of it gives the byte drawn at reset. Log entry 3. -/
abbrev Memory := List Host.Cell

/-- The things a host can do to the block (spec/60_exceptions.md R109; a command is a register write to index 0). -/
inductive HostAccess where
  /-- Assert the reset input (R123). -/
  | reset
  /-- HostWriteReg(i, w) (R43). -/
  | writeReg (i : RegIndex) (w : Word)
  /-- HostReadReg(i) (R44). -/
  | readReg (i : RegIndex)
  /-- HostWriteBuf(b, a, v) (R45). -/
  | writeBuf (b : Buf) (a : BufAddr) (v : Byte)
  /-- HostReadBuf(b, a) (R45). -/
  | readBuf (b : Buf) (a : BufAddr)
  deriving DecidableEq, Repr

/-- What a host read gets back (spec/60_exceptions.md R109). -/
inductive HostReply where
  | reg (w : Word)
  | byte (v : Byte)
  deriving DecidableEq, Repr

/-- One block instance. Every register is 16 bits (R19); CMD holds no value (R22), so it has no field. -/
@[ext]
structure State where
  /-- STATUS (R23): ERR [2:0], STICKY [3], MAGIC_OK [4], LEN_OK [5]. -/
  status : Word
  /-- PAYLEN (R29), bits [13:0]. -/
  paylen : Word
  /-- TXLEN (R30), bits [13:0]. -/
  txlen : Word
  /-- RXLEN (R31), bits [13:0]. -/
  rxlen : Word
  /-- FLAGS (R32). -/
  flags : Word
  /-- CSUM (R33). -/
  csum : Word
  /-- RES (R34), bit [0]. -/
  res : Word
  /-- The TX buffer's written bytes (R39). -/
  tx : Memory
  /-- The RX buffer's written bytes (R39). -/
  rx : Memory
  /-- The parameter MAGIC (spec/00_scope.md R9): the model's field, not the block's state (R17); nothing writes it. Log 1. -/
  magic : Magic
  /-- The model's field: which reset's draw an unwritten byte reads as (R41). Log entry 2. -/
  epoch : Nat
  /-- The model's field: the host's accesses not yet served, oldest first (spec/20_memory.md R54). Log entry 4. -/
  inputs : List HostAccess
  /-- The model's field: what host reads returned, newest first (spec/20_memory.md R44, R45). Log entry 5. -/
  replies : List HostReply
  deriving DecidableEq, Repr

/-- Reasons the machine stops with a fault: none. The block "raises no trap" (spec/60_exceptions.md R96) and "never hangs
or faults on any datagram" (R120); an error is a next state that records it in STATUS. Log entry 8. -/
inductive Fault where
  deriving DecidableEq, Repr

/-- Reasons the machine refuses to go on. -/
inductive Refusal where
  /-- Raised by an arm of exec whose command has no meaning yet (safe: the model stops). No arm raises it now. -/
  | notModelled (mnemonic : String)
  deriving DecidableEq, Repr

/-- The state right after power-on reset: every register 0x0000 (spec/10_state.md R40), no buffer byte written (R41),
MAGIC the open parameter, nothing issued by the host and nothing returned to it. DESIGN CHOICE: epoch 0 (log entry 2); two
instances that both start here share their draws, which the spec leaves open (log entry 19). -/
def State.reset : State where
  status := 0x0000
  paylen := 0x0000
  txlen := 0x0000
  rxlen := 0x0000
  flags := 0x0000
  csum := 0x0000
  res := 0x0000
  tx := []
  rx := []
  magic := Config.magic
  epoch := 0
  inputs := []
  replies := []

end Sys2Proof.Machine
end

