-- ==== Sys2Proof/Machine/Operands.lean ====
section
/-! DEFINITION. Operand forms and field helpers: the register map of spec/10_state.md R18 and R21, the [13:0] slice of a
length register, and the big-endian byte order of spec/20_memory.md R47. -/

namespace Sys2Proof.Machine

/-- The registers a 4-bit index names (R21). -/
inductive Reg where
  | cmd
  | status
  | paylen
  | txlen
  | rxlen
  | flags
  | csum
  | res
  /-- Indices 8..15 (R36). -/
  | reserved
  deriving DecidableEq, Repr

/-- The register map (R21). -/
def Reg.ofIndex (i : RegIndex) : Reg :=
  match i.toNat with
  | 0 => .cmd
  | 1 => .status
  | 2 => .paylen
  | 3 => .txlen
  | 4 => .rxlen
  | 5 => .flags
  | 6 => .csum
  | 7 => .res
  | _ => .reserved

/-- The bits a host read can return (R18, R21): a register's defined bits; none for CMD (WO) and the reserved indices. -/
def Reg.readMask : Reg → Word
  | .cmd => 0x0000
  | .status => 0x003F
  | .paylen => 0x3FFF
  | .txlen => 0x3FFF
  | .rxlen => 0x3FFF
  | .flags => 0xFFFF
  | .csum => 0xFFFF
  | .res => 0x0001
  | .reserved => 0x0000

/-- The bits a host write stores (R18, R21): bits [13:0] of the three RW registers, none elsewhere. -/
def Reg.writeMask : Reg → Word
  | .paylen => 0x3FFF
  | .txlen => 0x3FFF
  | .rxlen => 0x3FFF
  | _ => 0x0000

/-- Bits [13:0] of a length register, as the number of bytes the pseudocode takes from it (R81, R83, R87). -/
def lengthOf (w : Word) : Nat := (w.extractLsb' 0 14).toNat

/-- A length as a register holds it: L <= 16383 in bits [13:0]. -/
def lengthWord (n : Nat) : Word := (BitVec.ofNat 14 n).setWidth 16

/-- The high byte of a word, stored at the lower address (spec/20_memory.md R47). -/
def hiByte (w : Word) : Byte := w.extractLsb' 8 8

/-- The low byte of a word, stored at the higher address (R47). -/
def loByte (w : Word) : Byte := w.extractLsb' 0 8

/-- The word of two bytes, first byte most significant (R47, R48). -/
def beWord (hi lo : Byte) : Word := hi ++ lo

/-- A single bit as RES holds it: zext_16 (R88). -/
def bitWord (b : Bit) : Word := b.setWidth 16

/-- A truth value as a single bit: 1 for true (R87). -/
def boolBit (c : Bool) : Bit := BitVec.ofBool c

end Sys2Proof.Machine
end

