-- ==== Sys2Proof/Machine/Checksum.lean ====
section
/-! DEFINITION. The checksum functions of spec/40_checksum.md R73 to R77, over byte strings. -/

namespace Sys2Proof.Machine

/-- The words of a byte string, first word first: big-endian pairs, an odd last byte paired with a constant 0x00 (R73). -/
def wordsOf : List Byte → List Word
  | [] => []
  | [b] => [beWord b 0x00]
  | b₀ :: b₁ :: rest => beWord b₀ b₁ :: wordsOf rest

/-- OCAdd: the 17-bit sum with its carry out of bit 15 added back into bit 0 (R74). -/
def ocAdd (s w : Word) : Word :=
  let t : BitVec 17 := s.setWidth 17 + w.setWidth 17
  t.extractLsb' 0 16 + (t.extractLsb' 16 1).setWidth 16

/-- The one's-complement sum of words, in order, from 0x0000 (R75). -/
def ocSumWords (ws : List Word) : Word := ws.foldl ocAdd 0x0000

/-- OCSum of a byte string (R75). -/
def ocSum (bs : List Byte) : Word := ocSumWords (wordsOf bs)

/-- Checksum: the complement of the sum, with 0x0000 kept (R76). -/
def checksum (bs : List Byte) : Word := ~~~(ocSum bs)

/-- The view Z of a packet: bytes 8 and 9 taken as 0x00 (R77). -/
def zeroField (bs : List Byte) : List Byte := (bs.set 8 0x00).set 9 0x00

/-- PacketChecksum: the checksum with the checksum field taken as zero; it writes nothing (R77). -/
def packetChecksum (bs : List Byte) : Word := checksum (zeroField bs)

end Sys2Proof.Machine
end

