-- ==== Sys2Proof/Machine/Flags.lean ====
section
/-! DEFINITION. The two packed words: STATUS with its fields (spec/10_state.md R23 to R28) and the error codes
(spec/60_exceptions.md R97), and the packet's flags word (spec/30_encoding.md R67 to R69). -/

namespace Sys2Proof.Machine

/-- The errors a command can raise (spec/60_exceptions.md R97). -/
inductive ErrCode where
  /-- ILLEGAL_CMD: the word written to CMD is illegal (R98). -/
  | illegalCmd
  /-- TOO_LONG: PAYLEN > 16371 at a BUILD (R99). -/
  | tooLong
  /-- TRUNC: RXLEN < 12 at a VERIFY, EXTSEQ or EXTACK (R100). -/
  | trunc
  deriving DecidableEq, Repr

/-- The code STATUS.ERR records (R97). -/
def ErrCode.bits : ErrCode → ErrBits
  | .illegalCmd => 1
  | .tooLong => 2
  | .trunc => 3

/-- ERR = NONE: the command completed (R24). -/
def errNone : ErrBits := 0

/-- STATUS.ERR, bits [2:0]. -/
def statusErr (w : Word) : ErrBits := w.extractLsb' 0 3

/-- STATUS.STICKY, bit [3]. -/
def statusSticky (w : Word) : Bool := w.getLsbD 3

/-- STATUS.MAGIC_OK, bit [4]. -/
def statusMagicOk (w : Word) : Bool := w.getLsbD 4

/-- STATUS.LEN_OK, bit [5]. -/
def statusLenOk (w : Word) : Bool := w.getLsbD 5

/-- STATUS.ERR <- c: "writes only that field" (spec/00_scope.md R12). -/
def withErr (c : ErrBits) (w : Word) : Word := (w &&& 0xFFF8) ||| c.setWidth 16

/-- STATUS with bit i set to v and every other bit kept (spec/00_scope.md R12). -/
def withStatusBit (i : Nat) (v : Bool) (w : Word) : Word :=
  (w &&& ~~~((1 : Word) <<< i)) ||| ((BitVec.ofBool v).setWidth 16 <<< i)

/-- STATUS.STICKY <- v. -/
def withSticky (v : Bool) (w : Word) : Word := withStatusBit 3 v w

/-- STATUS.MAGIC_OK <- v. -/
def withMagicOk (v : Bool) (w : Word) : Word := withStatusBit 4 v w

/-- STATUS.LEN_OK <- v. -/
def withLenOk (v : Bool) (w : Word) : Word := withStatusBit 5 v w

/-- MkFlags(L, a, s): total_length in [15:2], ack_bit in [1], seq_bit in [0] (spec/30_encoding.md R67, R69). -/
def mkFlags (len : BitVec 14) (a q : Bit) : Word := len ++ a ++ q

/-- Len(F) = F[15:2] (R69). -/
def flagsLen (f : Word) : BitVec 14 := f.extractLsb' 2 14

/-- Ack(F) = F[1] (R69). -/
def flagsAck (f : Word) : Bit := f.extractLsb' 1 1

/-- Seq(F) = F[0] (R69). -/
def flagsSeq (f : Word) : Bit := f.extractLsb' 0 1

end Sys2Proof.Machine
end

