-- ==== Sys2Proof/Machine/Ops.lean ====
section
/-! DEFINITION. The named operations every meaning is written over: buffer bytes in their canonical form, the registers'
one home, raising an error, completing a command, reset, and framing a packet. -/

namespace Sys2Proof.Machine

/-! ### Buffers -/

/-- The canonical form: strictly rising addresses, each below 16384. An unlisted address has no value, so no entry can
equal it. Log entry 3. -/
abbrev Memory.wf (m : Memory) : Prop :=
  m.Pairwise (fun c d => c.1 < d.1) ∧ ∀ c ∈ m, c.1 < Config.bufBytes

/-- The byte written at an address, if any. -/
def Memory.lookup : Memory → Nat → Option Byte
  | [], _ => none
  | c :: m, a => if c.1 = a then some c.2 else Memory.lookup m a

/-- Write one byte, keeping the addresses rising. -/
def Memory.insert : Memory → Nat → Byte → Memory
  | [], a, v => [(a, v)]
  | c :: m, a, v =>
    if a < c.1 then (a, v) :: c :: m
    else if a = c.1 then (a, v) :: m
    else c :: Memory.insert m a v

/-- The written bytes of a buffer. -/
def bufOf (b : Buf) (s : State) : Memory :=
  match b with
  | .tx => s.tx
  | .rx => s.rx

/-- Replace the written bytes of a buffer. -/
def setBuf (b : Buf) (m : Memory) (s : State) : State :=
  match b with
  | .tx => { s with tx := m }
  | .rx => { s with rx := m }

/-- MemRead(b:a, 1) (spec/00_scope.md R12): the byte written there, or the byte drawn at the last reset
(spec/10_state.md R41). -/
def readByte (b : Buf) (a : Nat) (s : State) : Byte :=
  ((bufOf b s).lookup a).getD (Config.resetByte s.epoch b a)

/-- MemWrite(b:a, 1, v) (spec/00_scope.md R12): changes only the one byte (spec/20_memory.md R45). -/
def writeByte (b : Buf) (a : Nat) (v : Byte) (s : State) : State :=
  setBuf b ((bufOf b s).insert a v) s

/-- Write bytes at rising addresses from a. -/
def writeBytes (b : Buf) (a : Nat) : List Byte → State → State
  | [], s => s
  | v :: vs, s => writeBytes b (a + 1) vs (writeByte b a v s)

/-- The byte string b[a..a+n) (spec/00_scope.md R12). -/
def readBytes (b : Buf) (a n : Nat) (s : State) : List Byte :=
  (List.range' a n).map fun k => readByte b k s

/-- The word of the two bytes at a and a+1, big-endian (spec/20_memory.md R47). -/
def readWord (b : Buf) (a : Nat) (s : State) : Word := beWord (readByte b a s) (readByte b (a + 1) s)

/-! ### Registers -/

/-- The stored value of a register; CMD and the reserved indices hold none (spec/10_state.md R22, R36). -/
def storedReg (r : Reg) (s : State) : Word :=
  match r with
  | .cmd => 0x0000
  | .status => s.status
  | .paylen => s.paylen
  | .txlen => s.txlen
  | .rxlen => s.rxlen
  | .flags => s.flags
  | .csum => s.csum
  | .res => s.res
  | .reserved => 0x0000

/-- HostReadReg(i): the stored value, with every bit the register does not define read as 0 (R18, spec/20_memory.md R44). -/
def readReg (i : RegIndex) (s : State) : Word :=
  storedReg (Reg.ofIndex i) s &&& (Reg.ofIndex i).readMask

/-- A host write to a register other than CMD: RW registers store the value masked to their defined bits, the others
ignore it (R18, spec/20_memory.md R43). -/
def storeReg (r : Reg) (w : Word) (s : State) : State :=
  match r with
  | .paylen => { s with paylen := w &&& r.writeMask }
  | .txlen => { s with txlen := w &&& r.writeMask }
  | .rxlen => { s with rxlen := w &&& r.writeMask }
  | _ => s

/-- STATUS <- w, by the block. -/
def setStatus (w : Word) (s : State) : State := { s with status := w }

/-- x[TXLEN] <- w, by the block. -/
def setTxlen (w : Word) (s : State) : State := { s with txlen := w }

/-- x[FLAGS] <- w, by the block. -/
def setFlags (w : Word) (s : State) : State := { s with flags := w }

/-- x[CSUM] <- w, by the block. -/
def setCsum (w : Word) (s : State) : State := { s with csum := w }

/-- x[RES] <- w, by the block. -/
def setRes (w : Word) (s : State) : State := { s with res := w }

/-- STATUS.MAGIC_OK and STATUS.LEN_OK, as VERIFY writes them together (spec/42_verify_extract.md R87). -/
def setChecks (magicOk lenOk : Bool) (s : State) : State :=
  setStatus (withLenOk lenOk (withMagicOk magicOk s.status)) s

/-! ### Ending a command -/

/-- `raise Error(code)`: ERR <- code, STICKY <- 1, and the command ends (spec/00_scope.md R13). This is the block's whole
exception entry: no vector, no saved state, no mode (spec/60_exceptions.md R103). -/
def raiseError (c : ErrCode) (s : State) : State := setStatus (withSticky true (withErr c.bits s.status)) s

/-- STATUS.ERR <- 0: the command completed; STICKY is kept (spec/10_state.md R24, R25). -/
def complete (s : State) : State := setStatus (withErr errNone s.status) s

/-! ### Reset -/

/-- The reset input, between accesses: every register 0x0000, every buffer byte drawn anew, MAGIC unaffected
(spec/70_reset_and_hazards.md R123, R124). The host's queue and what it has read stay: they are not the block's. Log 6. -/
def resetBlock (s : State) : State :=
  { State.reset with magic := s.magic, epoch := s.epoch + 1, inputs := s.inputs, replies := s.replies }

/-! ### Packets -/

/-- The number of bytes of the packet in a buffer: TXLEN[13:0] or RXLEN[13:0] (spec/40_checksum.md R81). -/
def packetLen (b : Buf) (s : State) : Nat :=
  match b with
  | .tx => lengthOf s.txlen
  | .rx => lengthOf s.rxlen

/-- The packet in a buffer: b[0..length) (spec/20_memory.md R59). -/
def packetBytes (b : Buf) (s : State) : List Byte := readBytes b 0 (packetLen b s) s

/-- The header with its checksum zeroed: MAGIC, 00 00, flags (spec/41_build.md R83). -/
def writeHeader (f : Word) (s : State) : State :=
  writeBytes .tx 0 (s.magic.toList ++ [0x00, 0x00, hiByte f, loByte f]) s

/-- "checksum filled in" (R83). -/
def fillChecksum (c : Word) (s : State) : State := writeBytes .tx 8 [hiByte c, loByte c] s

/-- The part BUILD and BUILDACK share: frame the packet of len bytes with flags word f in TX, and report it (R83, R84). -/
def framePacket (len : Nat) (f : Word) (s : State) : State :=
  let framed := writeHeader f s
  let c := checksum (readBytes .tx 0 len framed)
  complete (setCsum c (setFlags f (setTxlen (lengthWord len) (fillChecksum c framed))))

end Sys2Proof.Machine
end

