-- ==== Sys2Proof/Machine/Build.lean ====
section
/-! DEFINITION. The packet framer's commands BUILD and BUILDACK (spec/41_build.md R83, R84). -/

namespace Sys2Proof.Machine

/-- BUILD: TOO_LONG when PAYLEN > 16371 and nothing else written, otherwise the packet of 12 + PAYLEN bytes (R83). -/
def execBuild (a q : Bit) (s : State) : Host.Outcome State Fault Refusal :=
  let n := lengthOf s.paylen
  if Config.maxPayload < n then .next (raiseError .tooLong s)
  else .next (framePacket (Config.hdrLen + n) (mkFlags (BitVec.ofNat 14 (Config.hdrLen + n)) a q) s)

/-- BUILDACK: the 12-byte packet with ack_bit 1; PAYLEN is not read (R84). -/
def execBuildack (q : Bit) (s : State) : Host.Outcome State Fault Refusal :=
  .next (framePacket Config.hdrLen (mkFlags (BitVec.ofNat 14 Config.hdrLen) 1 q) s)

end Sys2Proof.Machine
end

