-- ==== Sys2Proof/Machine/Control.lean ====
section
/-! DEFINITION. The control commands NOP and CLRERR (spec/43_control.md). -/

namespace Sys2Proof.Machine

/-- NOP: no effect, STATUS included (R93). -/
def execNop (s : State) : Host.Outcome State Fault Refusal := .next s

/-- CLRERR: ERR <- 0, STICKY <- 0 (R94). -/
def execClrerr (s : State) : Host.Outcome State Fault Refusal :=
  .next (setStatus (withSticky false (withErr errNone s.status)) s)

end Sys2Proof.Machine
end

