-- ==== Sys2Proof/Machine/Generate.lean ====
section
/-! DEFINITION. The checksum generator's command CSUM (spec/40_checksum.md R81). -/

namespace Sys2Proof.Machine

/-- CSUM: CSUM <- Checksum of the selected buffer's packet as it is, checksum field included (R81). -/
def execCsum (b : Buf) (s : State) : Host.Outcome State Fault Refusal :=
  .next (complete (setCsum (checksum (packetBytes b s)) s))

end Sys2Proof.Machine
end

