-- ==== Sys2Proof/Machine/Parse.lean ====
section
/-! DEFINITION. The packet parser's commands VERIFY, EXTSEQ and EXTACK (spec/42_verify_extract.md R87 to R92). They read
RX and never write it (R92). -/

namespace Sys2Proof.Machine

/-- VERIFY: TRUNC when RXLEN < 12, with RES, MAGIC_OK and LEN_OK cleared first. Otherwise RES is the exact comparison of the
recomputed checksum with the stored bytes, and MAGIC_OK and LEN_OK are advice (R87, R91). -/
def execVerify (s : State) : Host.Outcome State Fault Refusal :=
  let n := packetLen .rx s
  if n < Config.hdrLen then .next (raiseError .trunc (setChecks false false (setRes 0x0000 s)))
  else
    let c := packetChecksum (packetBytes .rx s)
    let f := readWord .rx 10 s
    let valid := decide (c = readWord .rx 8 s)
    let magicOk := decide (readBytes .rx 0 8 s = s.magic.toList)
    let lenOk := decide ((flagsLen f).toNat = n)
    .next (complete (setChecks magicOk lenOk (setFlags f (setCsum c (setRes (bitWord (boolBit valid)) s)))))

/-- The part EXTSEQ and EXTACK share: TRUNC with RES cleared when RXLEN < 12, otherwise FLAGS <- RX[10..12) and RES <- the
field of it (R88, R89). No checksum is computed. -/
def extractBit (field : Word → Bit) (s : State) : State :=
  if packetLen .rx s < Config.hdrLen then raiseError .trunc (setRes 0x0000 s)
  else
    let f := readWord .rx 10 s
    complete (setRes (bitWord (field f)) (setFlags f s))

/-- EXTSEQ: RES <- seq_bit (R88). -/
def execExtseq (s : State) : Host.Outcome State Fault Refusal := .next (extractBit flagsSeq s)

/-- EXTACK: RES <- ack_bit (R89). -/
def execExtack (s : State) : Host.Outcome State Fault Refusal := .next (extractBit flagsAck s)

end Sys2Proof.Machine
end

