-- ==== Sys2Proof/Machine/Dispatch.lean ====
section
/-! DEFINITION. One arm per command: exec calls each command's meaning. -/

namespace Sys2Proof.Machine

def exec (i : Instr) (s : State) : Host.Outcome State Fault Refusal :=
  match i with
  | .nop => Sys2Proof.Machine.execNop s
  | .csum b => Sys2Proof.Machine.execCsum b s
  | .build a q => Sys2Proof.Machine.execBuild a q s
  | .buildack q => Sys2Proof.Machine.execBuildack q s
  | .verify => Sys2Proof.Machine.execVerify s
  | .extseq => Sys2Proof.Machine.execExtseq s
  | .extack => Sys2Proof.Machine.execExtack s
  | .clrerr => Sys2Proof.Machine.execClrerr s

end Sys2Proof.Machine
end

