-- ==== Sys2Proof/Machine/HostPort.lean ====
section
/-! DEFINITION. The host's accesses (spec/20_memory.md R43 to R45, spec/60_exceptions.md R109): what the block does for each. -/

namespace Sys2Proof.Machine

/-- A word written to CMD: the command it encodes, or ILLEGAL_CMD and nothing else. Decoding comes before any operand is
looked at (spec/10_state.md R22, spec/60_exceptions.md R98, R101). -/
def runCommandWord (w : Word) (s : State) : Host.Outcome State Fault Refusal :=
  match decode w with
  | .ok i => exec i s
  | .error _ => .next (raiseError .illegalCmd s)

/-- HostWriteReg(i, w) (spec/20_memory.md R43). -/
def hostWriteReg (i : RegIndex) (w : Word) (s : State) : Host.Outcome State Fault Refusal :=
  match Reg.ofIndex i with
  | .cmd => runCommandWord w s
  | r => .next (storeReg r w s)

/-- Hand a value back to the host; a read has no other effect (spec/20_memory.md R44, R45). -/
def reply (r : HostReply) (s : State) : State := { s with replies := r :: s.replies }

/-- One host access, performed completely (spec/20_memory.md R54). -/
def perform (x : HostAccess) (s : State) : Host.Outcome State Fault Refusal :=
  match x with
  | .reset => .next (resetBlock s)
  | .writeReg i w => hostWriteReg i w s
  | .readReg i => .next (reply (.reg (readReg i s)) s)
  | .writeBuf b a v => .next (writeByte b a.toNat v s)
  | .readBuf b a => .next (reply (.byte (readByte b a.toNat s)) s)

/-- Take the host's oldest access off the queue. -/
def withInputs (xs : List HostAccess) (s : State) : State := { s with inputs := xs }

/-- The access that writes a command word to CMD. -/
def commandAccess (w : Word) : HostAccess := .writeReg 0 w

end Sys2Proof.Machine
end

