-- ==== Sys2Proof/Machine/Step.lean ====
section
/-! DEFINITION. One step: the block serves the host's oldest access. It has no step of its own and fetches nothing
(spec/10_state.md R15, R35): with no access waiting it holds its state (spec/60_exceptions.md R108). Log entry 4. -/

namespace Sys2Proof.Machine

/-- One step of the machine. -/
def step (s : State) : Host.Outcome State Fault Refusal :=
  match s.inputs with
  | [] => .next s
  | x :: rest => perform x (withInputs rest s)

/-- The state in which the host's very next access writes the command word w to CMD. It stands for the host issuing that
command; nothing is stored in the block. Log entry 4. -/
def State.withFetchWord (s : State) (nbits w : Nat) : State :=
  withInputs (commandAccess (BitVec.ofNat 16 (w % 2 ^ nbits)) :: s.inputs) s

end Sys2Proof.Machine
end

