-- ==== Sys2Proof/Machine/HostProgram.lean ====
section
/-! DEFINITION. Host programs: the assembler forms of spec/30_encoding.md R70, the transactions of R71 and the
pseudo-instructions of R72, as lists of host accesses; and performing such a list in order (spec/20_memory.md R54). -/

namespace Sys2Proof.Machine

/-- One command line of R70: a command, or `.cmd` with any word. -/
inductive AsmLine where
  | instr (i : Instr)
  | raw (w : Word)
  deriving DecidableEq, Repr

/-- The word a line stands for (R70). -/
def AsmLine.word : AsmLine → Word
  | .instr i => encode i
  | .raw w => w

/-- A one-bit operand: a bare digit or name=digit (R70). -/
def parseBit (name token : String) : Option Bit :=
  if token = "0" ∨ token = name ++ "=0" then some 0
  else if token = "1" ∨ token = name ++ "=1" then some 1
  else none

/-- A hexadecimal digit's value. -/
def hexDigit (c : Char) : Option Nat :=
  let n := c.toNat
  if 48 ≤ n ∧ n ≤ 57 then some (n - 48)
  else if 65 ≤ n ∧ n ≤ 70 then some (n - 55)
  else if 97 ≤ n ∧ n ≤ 102 then some (n - 87)
  else none

/-- The word of a 0xHHHH token (R70). -/
def parseHex (token : String) : Option Word :=
  match token.toList with
  | ['0', 'x', a, b, c, d] =>
    match hexDigit a, hexDigit b, hexDigit c, hexDigit d with
    | some h, some i, some j, some k => some (BitVec.ofNat 16 (((h * 16 + i) * 16 + j) * 16 + k))
    | _, _, _, _ => none
  | _ => none

/-- The line of R70 that a list of tokens spells. -/
def parseTokens : List String → Option AsmLine
  | ["nop"] => some (.instr .nop)
  | ["csum", "tx"] => some (.instr (.csum .tx))
  | ["csum", "rx"] => some (.instr (.csum .rx))
  | ["build", a, q] =>
    match parseBit "a" a, parseBit "s" q with
    | some a, some q => some (.instr (.build a q))
    | _, _ => none
  | ["buildack", q] => (parseBit "s" q).map fun q => .instr (.buildack q)
  | ["verify"] => some (.instr .verify)
  | ["extseq"] => some (.instr .extseq)
  | ["extack"] => some (.instr .extack)
  | ["clrerr"] => some (.instr .clrerr)
  | [".cmd", w] => (parseHex w).map .raw
  | _ => none

/-- The tokens of a line: what stands before a `;`, cut at spaces and commas (R70). -/
def tokensOf (line : List Char) : List String :=
  (((line.takeWhile (· ≠ ';')).splitOnP fun c => c = ' ' ∨ c = ',').filter (· ≠ [])).map String.ofList

/-- Assemble one line of R70. -/
def assembleLine (line : String) : Option AsmLine := parseTokens (tokensOf line.toList)

/-- A command as a transaction: HostWriteReg(0, word) (R71). -/
def command (i : Instr) : HostAccess := commandAccess (encode i)

/-- `wbuf b, a, v0 v1 ...` (R71). -/
def wbuf (b : Buf) (a : Nat) (vs : List Byte) : List HostAccess :=
  vs.zipIdx.map fun p => .writeBuf b (BitVec.ofNat 14 (a + p.2)) p.1

/-- `rbuf b, a, n` (R71). -/
def rbuf (b : Buf) (a n : Nat) : List HostAccess :=
  (List.range n).map fun k => .readBuf b (BitVec.ofNat 14 (a + k))

/-- `loadpay`: the payload at TX[12..), then its length in PAYLEN (R72). -/
def loadpay (p : List Byte) : List HostAccess :=
  wbuf .tx Config.hdrLen p ++ [.writeReg 2 (BitVec.ofNat 16 p.length)]

/-- `rx`: a datagram at RX[0..), then its length in RXLEN (R72). -/
def loadrx (d : List Byte) : List HostAccess :=
  wbuf .rx 0 d ++ [.writeReg 4 (BitVec.ofNat 16 d.length)]

/-- `loopback`: the host copies the packet in TX to RX, as an intact channel would (R72). -/
def loopback (s : State) : List HostAccess := loadrx (packetBytes .tx s)

/-- `builddata s` (R72). -/
def builddata (q : Bit) : HostAccess := command (.build 0 q)

/-- Perform accesses in the order the host issues them, each completely before the next (spec/20_memory.md R54). -/
def performAll : List HostAccess → State → Host.Outcome State Fault Refusal
  | [], s => .next s
  | x :: xs, s =>
    match perform x s with
    | .next t => performAll xs t
    | .fault f => .fault f
    | .refused r => .refused r

/-! ### Program lines as text -/

/-- One line of a host program: a command line (R70), a transaction (R71) or a pseudo-instruction (R72). -/
inductive ProgramLine where
  | asm (l : AsmLine)
  | wreg (i : RegIndex) (w : Word)
  | rreg (i : RegIndex)
  | wbuf (b : Buf) (a : Nat) (vs : List Byte)
  | rbuf (b : Buf) (a n : Nat)
  | loadpay (p : List Byte)
  | rx (d : List Byte)
  | loopback
  | builddata (q : Bit)
  deriving DecidableEq, Repr

/-- The accesses a line stands for; only `loopback` depends on the state, which it copies from (R71, R72). -/
def ProgramLine.accesses (l : ProgramLine) (s : State) : List HostAccess :=
  match l with
  | .asm l => [commandAccess l.word]
  | .wreg i w => [.writeReg i w]
  | .rreg i => [.readReg i]
  | .wbuf b a vs => Sys2Proof.Machine.wbuf b a vs
  | .rbuf b a n => Sys2Proof.Machine.rbuf b a n
  | .loadpay p => Sys2Proof.Machine.loadpay p
  | .rx d => loadrx d
  | .loopback => Sys2Proof.Machine.loopback s
  | .builddata q => [Sys2Proof.Machine.builddata q]

/-- A decimal number. -/
def parseDecimal (token : String) : Option Nat :=
  match token.toList with
  | [] => none
  | cs => cs.foldl (fun n c => match n with
      | none => none
      | some n => if 48 ≤ c.toNat ∧ c.toNat ≤ 57 then some (n * 10 + (c.toNat - 48)) else none) (some 0)

/-- A register by its name in spec/10_state.md R21, or by a decimal index 0..15. -/
def parseReg (token : String) : Option RegIndex :=
  match token with
  | "CMD" => some 0
  | "STATUS" => some 1
  | "PAYLEN" => some 2
  | "TXLEN" => some 3
  | "RXLEN" => some 4
  | "FLAGS" => some 5
  | "CSUM" => some 6
  | "RES" => some 7
  | t => match parseDecimal t with
    | some n => if n < 16 then some (BitVec.ofNat 4 n) else none
    | none => none

/-- A buffer by its name (R71). -/
def parseBuf (token : String) : Option Buf :=
  match token with
  | "tx" => some .tx
  | "rx" => some .rx
  | _ => none

/-- A byte as a hexadecimal pair (spec/00_scope.md R11). -/
def parseByte (token : String) : Option Byte :=
  match token.toList with
  | [a, b] =>
    match hexDigit a, hexDigit b with
    | some h, some l => some (BitVec.ofNat 8 (h * 16 + l))
    | _, _ => none
  | _ => none

/-- Bytes as hexadecimal pairs, all of them or nothing. -/
def parseBytes : List String → Option (List Byte)
  | [] => some []
  | t :: ts =>
    match parseByte t, parseBytes ts with
    | some v, some vs => some (v :: vs)
    | _, _ => none

/-- The line of R70 to R72 that a list of tokens spells. -/
def parseProgramTokens : List String → Option ProgramLine
  | ["wreg", r, w] =>
    match parseReg r, parseHex w with
    | some i, some w => some (.wreg i w)
    | _, _ => none
  | ["rreg", r] => (parseReg r).map .rreg
  | "wbuf" :: b :: a :: vs =>
    match parseBuf b, parseDecimal a, parseBytes vs with
    | some b, some a, some vs => some (.wbuf b a vs)
    | _, _, _ => none
  | ["rbuf", b, a, n] =>
    match parseBuf b, parseDecimal a, parseDecimal n with
    | some b, some a, some n => some (.rbuf b a n)
    | _, _, _ => none
  | "loadpay" :: vs => (parseBytes vs).map .loadpay
  | "rx" :: vs => (parseBytes vs).map .rx
  | ["loopback"] => some .loopback
  | ["builddata", q] => (parseBit "s" q).map .builddata
  | ts => (parseTokens ts).map .asm

/-- The bytes of a text: ASCII, one byte per character (R72); a character outside ASCII has none. -/
def asciiBytes : List Char → Option (List Byte)
  | [] => some []
  | c :: cs =>
    match asciiBytes cs with
    | some vs => if c.toNat < 128 then some (BitVec.ofNat 8 c.toNat :: vs) else none
    | none => none

/-- One line of a host program, read from its text; `loadpay` takes its bytes or a quoted text (R70 to R72). -/
def parseLine (line : String) : Option ProgramLine :=
  match line.toList with
  | 'l' :: 'o' :: 'a' :: 'd' :: 'p' :: 'a' :: 'y' :: ' ' :: '"' :: rest =>
    if '"' ∈ rest ∧ tokensOf (rest.dropWhile (· ≠ '"')).tail = [] then
      (asciiBytes (rest.takeWhile (· ≠ '"'))).map .loadpay
    else none
  | cs => parseProgramTokens (tokensOf cs)

/-- Perform a program line by line, each completely before the next (spec/20_memory.md R54). -/
def runProgram : List ProgramLine → State → Host.Outcome State Fault Refusal
  | [], s => .next s
  | l :: ls, s =>
    match performAll (l.accesses s) s with
    | .next t => runProgram ls t
    | .fault f => .fault f
    | .refused r => .refused r

end Sys2Proof.Machine
end

