-- ==== Sys2Proof/Machine/Engines.lean ====
section
/-! DEFINITION. The host's reference engines, outside the block (spec/00_scope.md R6): the sender, the receiver, the fault
policy and the channel of spec/60_exceptions.md R110 to R122, driving block instances of their own through host accesses.
No field of State belongs to them (spec/10_state.md R17). Log entries 9, 10, 17 and 18. -/

namespace Sys2Proof.Machine

/-- A datagram: the bytes of one packet on the wire (spec/30_encoding.md R66). -/
abbrev Datagram := List Byte

/-- What FAULT_POLICY does to a received datagram (R115). -/
inductive FaultVerdict where
  | pass
  | drop
  | corrupt
  deriving DecidableEq, Repr

/-- The reference FAULT_POLICY: every 6th dropped, every 3rd not 6th corrupted (R115). -/
def referencePolicy (count : Nat) : FaultVerdict :=
  if count % 6 = 0 then .drop else if count % 3 = 0 then .corrupt else .pass

/-- The host's parameters (spec/00_scope.md R10): not parameters of the block. T_TIMEOUT is a deadline in an unnamed unit;
the model has no time, and its expiry is the event `SenderEvent.timeout` (R113, spec/93_implementation_defined.md U6). -/
structure HostParams where
  faultPolicy : Nat → FaultVerdict
  discardMalformed : Bool
  maxRetries : Option Nat
  tTimeout : Nat
  msgEncoding : String → List Byte

/-- The reference values, for an encoding of messages, which has none (spec/92_eei_decisions.md D24 to D29, D35). -/
def HostParams.reference (enc : String → List Byte) : HostParams where
  faultPolicy := referencePolicy
  discardMalformed := false
  maxRetries := none
  tTimeout := 2
  msgEncoding := enc

/-- Sequencing: go on from a next state, keep a stop. -/
def andThen {α β : Type} (o : Host.Outcome α Fault Refusal) (f : α → Host.Outcome β Fault Refusal) :
    Host.Outcome β Fault Refusal :=
  match o with
  | .next a => f a
  | .fault r => .fault r
  | .refused r => .refused r

/-- RES as the host reads it. -/
def readRes (s : State) : Word := readReg 7 s

/-- A datagram VERIFY reports as malformed: truncated, or with the wrong magic (R120). -/
def malformed (s : State) : Bool :=
  decide (statusErr s.status = ErrCode.trunc.bits) || !statusMagicOk s.status

/-! ### Sender -/

/-- The sender (R110, R122), with its own block instance (R106). -/
structure Sender where
  block : State
  seqBit : Bit
  acknowledged : Bool
  /-- The packets-sent counter (R122). That every transmission counts, retransmissions too, is the model's: log entry 18. -/
  sentCount : Nat
  /-- The send in progress, if any, as the number of its retransmissions so far (R121). -/
  inFlight : Option Nat
  deriving DecidableEq, Repr

/-- The sender's start: seq_bit 0 (R110), no send in progress. DESIGN CHOICE, since the spec gives no value before the first
send: acknowledged false (log entry 17) and the packets-sent counter 0 (log entry 18). -/
def Sender.start (block : State) : Sender := ⟨block, 0, false, 0, none⟩

/-- The packet the sender transmits: TX[0..TXLEN), the same bytes every time (R111). -/
def Sender.datagram (e : Sender) : Datagram := packetBytes .tx e.block

/-- Count a transmission (R122). Log entry 18. -/
def Sender.transmit (e : Sender) : Sender := { e with sentCount := e.sentCount + 1 }

/-- How often the send in progress has retransmitted. -/
def Sender.retries (e : Sender) : Nat := e.inFlight.getD 0

/-- Transmit the packet in TX again (R111). -/
def Sender.retransmit (e : Sender) : Sender := { e.transmit with inFlight := some (e.retries + 1) }

/-- End the send in progress without an acknowledgment: the opt-in cap (R113). Log entry 10. -/
def Sender.giveUp (e : Sender) : Sender := { e with inFlight := none }

/-- Start a message: acknowledged <- false, load the payload, build once with the current seq_bit (R111). -/
def Sender.beginSend (payload : List Byte) (e : Sender) : Host.Outcome Sender Fault Refusal :=
  andThen (performAll (loadpay payload ++ [command (.build 0 e.seqBit)]) e.block) fun b =>
    .next { e with block := b, acknowledged := false, inFlight := some 0 }

/-- The three conditions for a response to be accepted (R112). -/
def accepted (v a q : Word) (seqBit : Bit) : Bool := decide (v = 1 ∧ a = 1 ∧ q = bitWord seqBit)

/-- What the sender waits for (R111, R119). -/
inductive SenderEvent where
  | timeout
  | datagram (d : Datagram)
  deriving DecidableEq, Repr

/-- What the sender makes of an event. -/
inductive SenderVerdict where
  /-- The response acknowledges the message (R112). -/
  | accept
  /-- This attempt was not acknowledged: transmit the same packet again (R111). -/
  | retry
  /-- Discarded as noise: it was not a response (R120, HOST_DISCARD_MALFORMED; R127). -/
  | ignore
  deriving DecidableEq, Repr

/-- Read a response: verify, extack, extseq, and judge by R112; on acceptance seq_bit alternates and the send is over (R111). -/
def Sender.judge (p : HostParams) (d : Datagram) (e : Sender) : Host.Outcome (SenderVerdict × Sender) Fault Refusal :=
  if presentable d then
    andThen (performAll (loadrx d ++ [command .verify]) e.block) fun b₁ =>
      if p.discardMalformed && malformed b₁ then .next (.ignore, { e with block := b₁ })
      else
        andThen (performAll [command .extack] b₁) fun b₂ =>
          andThen (performAll [command .extseq] b₂) fun b₃ =>
            if accepted (readRes b₁) (readRes b₂) (readRes b₃) e.seqBit then
              .next (.accept, { e with block := b₃, seqBit := 1 - e.seqBit, acknowledged := true, inFlight := none })
            else .next (.retry, { e with block := b₃ })
  else .next (.ignore, e)

/-- One event while waiting (R111). -/
def Sender.handle (p : HostParams) (ev : SenderEvent) (e : Sender) :
    Host.Outcome (SenderVerdict × Sender) Fault Refusal :=
  match ev with
  | .timeout => .next (.retry, e)
  | .datagram d => e.judge p d

/-- Where a send stands after the events given. -/
inductive SendResult where
  /-- It still waits: with no retry ceiling it may wait for ever (R113). -/
  | waiting
  /-- The message was acknowledged (R111). -/
  | success
  /-- The opt-in retry cap was reached (R113, MAX_RETRIES). -/
  | gaveUp
  /-- The host did not start: the payload does not fit a packet (spec/30_encoding.md R68). Log entry 10. -/
  | notSent
  /-- The host did not start: the prior send is not complete (R121). -/
  | busy
  deriving DecidableEq, Repr

/-- A send so far: the sender, where the send stands, the datagrams it transmitted, oldest first, and the events it did not
read. -/
structure SendRun where
  sender : Sender
  result : SendResult
  sent : List Datagram
  rest : List SenderEvent
  deriving DecidableEq, Repr

/-- True when one more retransmission would pass the cap; never with the reference value (R113). -/
def capReached (cap : Option Nat) (used : Nat) : Bool :=
  match cap with
  | none => false
  | some n => decide (n ≤ used)

/-- Wait for events in the send in progress, retransmitting the same packet after every attempt that was not acknowledged
(R111). A send still waiting goes on from here when more events arrive. -/
def Sender.await (p : HostParams) (evs : List SenderEvent) (e : Sender) : Host.Outcome SendRun Fault Refusal :=
  match evs with
  | [] => .next ⟨e, .waiting, [], []⟩
  | ev :: rest =>
    andThen (e.handle p ev) fun r =>
      match r.1 with
      | .accept => .next ⟨r.2, .success, [], rest⟩
      | .ignore => Sender.await p rest r.2
      | .retry =>
        if capReached p.maxRetries r.2.retries then .next ⟨r.2.giveUp, .gaveUp, [], rest⟩
        else
          andThen (Sender.await p rest r.2.retransmit) fun run =>
            .next { run with sent := r.2.datagram :: run.sent }

/-- send(message), over the events that arrive (R111). "The sender begins no new send until the prior one completes" (R121):
with one in progress, nothing is built, transmitted or read. -/
def Sender.send (p : HostParams) (message : String) (evs : List SenderEvent) (e : Sender) :
    Host.Outcome SendRun Fault Refusal :=
  match e.inFlight with
  | some _ => .next ⟨e, .busy, [], evs⟩
  | none =>
    let payload := p.msgEncoding message
    if payloadFits payload then
      andThen (e.beginSend payload) fun e₁ =>
        andThen (Sender.await p evs e₁.transmit) fun run =>
          .next { run with sent := e₁.datagram :: run.sent }
    else .next ⟨e, .notSent, [], evs⟩

/-- The send is over, so the next may begin (R121). -/
def SendResult.over : SendResult → Bool
  | .waiting => false
  | .success => true
  | .gaveUp => true
  | .notSent => true
  | .busy => false

/-- A sender's sends so far, in order. -/
structure Session where
  sender : Sender
  runs : List SendRun
  deriving DecidableEq, Repr

/-- Send messages one after another, each with the events the prior ones left, and none before the prior one is over (R121). -/
def Sender.sendAll (p : HostParams) (messages : List String) (evs : List SenderEvent) (e : Sender) :
    Host.Outcome Session Fault Refusal :=
  match messages with
  | [] => .next ⟨e, []⟩
  | m :: ms =>
    andThen (e.send p m evs) fun run =>
      if run.result.over then
        andThen (Sender.sendAll p ms run.rest run.sender) fun out => .next { out with runs := run :: out.runs }
      else .next ⟨run.sender, [run]⟩

/-! ### Receiver -/

/-- The receiver (R114, R122), with its own block instance; delivered holds the payloads delivered upward, oldest first. -/
structure Receiver where
  block : State
  expected : Bit
  count : Nat
  delivered : List (List Byte)
  deriving DecidableEq, Repr

/-- The receiver's start: expected_seq_bit 0, count 0 (R114, R115). -/
def Receiver.start (block : State) : Receiver := ⟨block, 0, 0, []⟩

/-- Answer with an ACK for a seq_bit: buildack, then transmit TX[0..TXLEN) (R115 to R118). -/
def Receiver.answer (q : Bit) (r : Receiver) : Host.Outcome (Receiver × Option Datagram) Fault Refusal :=
  andThen (performAll [command (.buildack q)] r.block) fun b =>
    .next ({ r with block := b }, some (packetBytes .tx b))

/-- The payload by the datagram's length, RX[12..RXLEN) (R118). -/
def receivedPayload (s : State) : List Byte :=
  readBytes .rx Config.hdrLen (packetLen .rx s - Config.hdrLen) s

/-- Steps 3 to 5 for a datagram in RX that the policy passes (R116 to R118, R120). -/
def Receiver.accept (p : HostParams) (r : Receiver) : Host.Outcome (Receiver × Option Datagram) Fault Refusal :=
  andThen (performAll [command .verify] r.block) fun b₁ =>
    if p.discardMalformed && malformed b₁ then .next ({ r with block := b₁ }, none)
    else if readRes b₁ = 0 then Receiver.answer (1 - r.expected) { r with block := b₁ }
    else
      andThen (performAll [command .extseq] b₁) fun b₂ =>
        if readRes b₂ ≠ bitWord r.expected then Receiver.answer (1 - r.expected) { r with block := b₂ }
        else
          andThen (Receiver.answer r.expected { r with block := b₂, delivered := r.delivered ++ [receivedPayload b₂] })
            fun out => .next ({ out.1 with expected := 1 - r.expected }, out.2)

/-- One datagram: receive it, count it, apply the fault policy, then steps 3 to 5. The second component is the datagram
transmitted in answer, if any (R115 to R118). -/
def Receiver.onDatagram (p : HostParams) (d : Datagram) (r : Receiver) :
    Host.Outcome (Receiver × Option Datagram) Fault Refusal :=
  let counted : Receiver := { r with count := r.count + 1 }
  if presentable d then
    andThen (performAll (loadrx d) r.block) fun b =>
      let r₁ : Receiver := { counted with block := b }
      match p.faultPolicy r₁.count with
      | .drop => .next (r₁, none)
      | .corrupt => Receiver.answer (1 - r₁.expected) r₁
      | .pass => Receiver.accept p r₁
  else .next (counted, none)

/-- What the receive loop meets (R119, R121). -/
inductive ReceiverEvent where
  | datagram (d : Datagram)
  /-- "an external interrupt terminates the receive loop" (R121). -/
  | interrupt
  deriving DecidableEq, Repr

/-- The receive loop so far: the receiver, whether the loop was terminated, the answers transmitted, oldest first, and the
events not read. -/
structure ServeRun where
  receiver : Receiver
  ended : Bool
  sent : List Datagram
  rest : List ReceiverEvent
  deriving DecidableEq, Repr

/-- The receive loop: each datagram is processed fully, its answer included, before the next is read; with none it blocks,
and an interrupt ends it (R119, R121). -/
def Receiver.serve (p : HostParams) (evs : List ReceiverEvent) (r : Receiver) : Host.Outcome ServeRun Fault Refusal :=
  match evs with
  | [] => .next ⟨r, false, [], []⟩
  | .interrupt :: rest => .next ⟨r, true, [], rest⟩
  | .datagram d :: rest =>
    andThen (r.onDatagram p d) fun o =>
      andThen (Receiver.serve p rest o.1) fun run => .next { run with sent := o.2.toList ++ run.sent }

/-! ### Channel -/

/-- What the channel does to one datagram: a free choice outside the block (R119, spec/93_implementation_defined.md U9). -/
inductive ChannelAct where
  | deliver
  | lose
  | duplicate
  | alter (d : Datagram)
  deriving DecidableEq, Repr

/-- The datagrams that arrive for one transmitted. -/
def carry (a : ChannelAct) (d : Datagram) : List Datagram :=
  match a with
  | .deliver => [d]
  | .lose => []
  | .duplicate => [d, d]
  | .alter d' => [d']

end Sys2Proof.Machine
end

