-- ==== Sys2Proof/Safety.lean ====
section
/-! DEFINITION. What counts as a sound state and what a command may touch: the invariant of a block instance, and the
"which commands write which of them" table of spec/10_state.md R37 as data. -/

namespace Sys2Proof.Machine

/-- What holds of every state a block reaches. -/
structure State.Inv (s : State) : Prop where
  /-- The buffers keep their canonical form and hold addresses 0..16383 only (R39). -/
  tx_wf : s.tx.wf
  rx_wf : s.rx.wf
  /-- STATUS bits [15:6] are 0 (R28). -/
  status_reserved : s.status &&& 0xFFC0 = 0
  /-- ERR values 4..7 are never written (R24). -/
  err_legal : (statusErr s.status).toNat ≤ 3
  /-- An error on record is an error raised since the last CLRERR or reset (R24, R25). -/
  err_sticky : statusErr s.status ≠ errNone → statusSticky s.status = true
  /-- Bits [15:14] of the length registers are 0 (R29 to R31). -/
  paylen_high : s.paylen &&& 0xC000 = 0
  txlen_high : s.txlen &&& 0xC000 = 0
  rxlen_high : s.rxlen &&& 0xC000 = 0
  /-- Bits [15:1] of RES are 0 (R34). -/
  res_high : s.res &&& 0xFFFE = 0

/-- The columns of R37's table. -/
inductive Column where
  | err
  | sticky
  | magicOk
  | lenOk
  | res
  | flags
  | csum
  | txlen
  | txHeader
  deriving DecidableEq, Repr

/-- What `-` says in a column: the thing is unchanged (R37). -/
def Column.kept (c : Column) (s t : State) : Prop :=
  match c with
  | .err => statusErr t.status = statusErr s.status
  | .sticky => statusSticky t.status = statusSticky s.status
  | .magicOk => statusMagicOk t.status = statusMagicOk s.status
  | .lenOk => statusLenOk t.status = statusLenOk s.status
  | .res => t.res = s.res
  | .flags => t.flags = s.flags
  | .csum => t.csum = s.csum
  | .txlen => t.txlen = s.txlen
  | .txHeader => ∀ a < 12, readByte .tx a t = readByte .tx a s

/-- The columns that are not `-` in a command's row (R37): which row applies depends on PAYLEN or RXLEN alone. -/
def writtenColumns (i : Instr) (s : State) : List Column :=
  match i with
  | .nop => []
  | .csum _ => [.err, .csum]
  | .build _ _ =>
    if Config.maxPayload < lengthOf s.paylen then [.err, .sticky] else [.err, .flags, .csum, .txlen, .txHeader]
  | .buildack _ => [.err, .flags, .csum, .txlen, .txHeader]
  | .verify =>
    if packetLen .rx s < Config.hdrLen then [.err, .sticky, .magicOk, .lenOk, .res]
    else [.err, .magicOk, .lenOk, .res, .flags, .csum]
  | .extseq => if packetLen .rx s < Config.hdrLen then [.err, .sticky, .res] else [.err, .res, .flags]
  | .extack => if packetLen .rx s < Config.hdrLen then [.err, .sticky, .res] else [.err, .res, .flags]
  | .clrerr => [.err, .sticky]

/-- What no command touches (R37's last sentence, R28, and the model's own fields): PAYLEN, RXLEN, RX, TX beyond its header,
the reserved STATUS bits, MAGIC, and the host's side of the ports. -/
structure OutsideKept (s t : State) : Prop where
  paylen : t.paylen = s.paylen
  rxlen : t.rxlen = s.rxlen
  rx : t.rx = s.rx
  tx_payload : ∀ a, 12 ≤ a → readByte .tx a t = readByte .tx a s
  status_reserved : t.status &&& 0xFFC0 = s.status &&& 0xFFC0
  magic : t.magic = s.magic
  epoch : t.epoch = s.epoch
  inputs : t.inputs = s.inputs
  replies : t.replies = s.replies

/-- The STATUS register of t shows these fields, and its reserved bits are as they were in s (R23, R28). -/
structure StatusShows (s t : State) (err : ErrBits) (sticky magicOk lenOk : Bool) : Prop where
  err : statusErr t.status = err
  sticky : statusSticky t.status = sticky
  magicOk : statusMagicOk t.status = magicOk
  lenOk : statusLenOk t.status = lenOk
  reserved : t.status &&& 0xFFC0 = s.status &&& 0xFFC0

end Sys2Proof.Machine
end

