-- ==== Sys2Proof/Certificates/Slice0/Obligations.lean ====
section
/-! DEFINITION. The statements for the provers, each a rule of spec/ or a property its rules give. -/

open Sys2Proof Sys2Proof.Machine

/-! ### Encodings -/

/-- R62: the opcode map, as the thirteen pairs of a legal word and its command; every other word is illegal. -/
def Obligations.OpcodeMapIsExactlyTheThirteenWords : Prop :=
  ∀ (w : Word) (i : Instr), decode w = .ok i ↔ (w, i) ∈
    [((0x0000 : Word), Instr.nop), (0x1000, .csum .tx), (0x1001, .csum .rx), (0x2000, .build 0 0), (0x2001, .build 0 1),
     (0x2002, .build 1 0), (0x2003, .build 1 1), (0x3000, .buildack 0), (0x3001, .buildack 1), (0x4000, .verify),
     (0x5000, .extseq), (0x6000, .extack), (0x7000, .clrerr)]

/-- Decode and encode agree on every command and every word, and the decoder accepts a word exactly when it matches a row
of R62 under its mask. -/
def Obligations.DecodeAndEncodeAgree : Prop :=
  (∀ i : Instr, decode (encode i) = .ok i ∧ legalWord (encode i) = true) ∧
  (∀ (w : Word) (i : Instr), decode w = .ok i → encode i = w) ∧
  (∀ w : Word, legalWord w = true ↔ ∃ i, decode w = .ok i)

/-- A few words written out from R60 and R62 decode to their commands, and three illegal ones do not decode. -/
def Obligations.SpecWordsDecode : Prop :=
  decode 0b0000000000000000 = .ok .nop ∧ decode 0b0001000000000001 = .ok (.csum .rx) ∧
  decode 0b0010000000000010 = .ok (.build 1 0) ∧ decode 0b0010000000000001 = .ok (.build 0 1) ∧
  decode 0b0011000000000001 = .ok (.buildack 1) ∧ decode 0b0100000000000000 = .ok .verify ∧
  decode 0b0101000000000000 = .ok .extseq ∧ decode 0b0110000000000000 = .ok .extack ∧
  decode 0b0111000000000000 = .ok .clrerr ∧ decode 0b0010000000000100 = .error .reservedBitSet ∧
  decode 0b0011000000000010 = .error .reservedBitSet ∧ decode 0b1000000000000000 = .error (.unassignedOpcode 8)

/-- R69: MkFlags is the shifted or of its three fields, for every length up to 16383 its fields read back, and every word
is the flags word of its own fields. -/
def Obligations.FlagsWordPacksItsFields : Prop :=
  (∀ (n : Nat) (a q : Bit), n ≤ 16383 →
    mkFlags (BitVec.ofNat 14 n) a q = (BitVec.ofNat 16 n <<< 2) ||| (a.setWidth 16 <<< 1) ||| q.setWidth 16 ∧
    (flagsLen (mkFlags (BitVec.ofNat 14 n) a q)).toNat = n ∧ flagsAck (mkFlags (BitVec.ofNat 14 n) a q) = a ∧
    flagsSeq (mkFlags (BitVec.ofNat 14 n) a q) = q) ∧
  (∀ f : Word, mkFlags (flagsLen f) (flagsAck f) (flagsSeq f) = f)

/-! ### The step and the host's accesses -/

/-- When the host's oldest access writes to CMD a word that decodes to i, the step is exec of i in the state with that access
taken off the queue. R22; the queue is the model's (log entry 4). -/
def Obligations.StepRunsTheDecodedCommand : Prop :=
  ∀ (s : State) (w : Word) (i : Instr) (rest : List HostAccess),
    s.inputs = .writeReg 0 w :: rest → decode w = .ok i → step s = exec i { s with inputs := rest }

/-- withFetchWord issues exactly the command given: the next step is exec of it in the state itself (log entry 4). -/
def Obligations.FetchWordRunsTheCommand : Prop :=
  ∀ (s : State) (i : Instr), step (s.withFetchWord 16 (encode i).toNat) = exec i s

/-- The step serves the host's oldest access and no other, and with none waiting the block holds its state (log entry 4). -/
def Obligations.StepServesOldestAccessOrHolds : Prop :=
  (∀ (s : State) (x : HostAccess) (rest : List HostAccess), s.inputs = x :: rest → step s = perform x { s with inputs := rest }) ∧
  (∀ s : State, s.inputs = [] → step s = .next s)

/-- No access and no command stops the block, in any state: it "never hangs or faults on any datagram" (R120). -/
def Obligations.BlockNeverStops : Prop :=
  (∀ s : State, ∃ t, step s = .next t) ∧ (∀ (xs : List HostAccess) (s : State), ∃ t, performAll xs s = .next t)

/-- R43, R29 to R31: a host write to PAYLEN, TXLEN or RXLEN stores bits [13:0] and nothing else changes; one to STATUS, FLAGS,
CSUM, RES or a reserved index changes nothing. -/
def Obligations.HostRegisterWrites : Prop :=
  ∀ (w : Word) (s : State),
    (∃ t, perform (.writeReg 2 w) s = .next t ∧ t.paylen.toNat = w.toNat % 16384 ∧ { t with paylen := s.paylen } = s) ∧
    (∃ t, perform (.writeReg 3 w) s = .next t ∧ t.txlen.toNat = w.toNat % 16384 ∧ { t with txlen := s.txlen } = s) ∧
    (∃ t, perform (.writeReg 4 w) s = .next t ∧ t.rxlen.toNat = w.toNat % 16384 ∧ { t with rxlen := s.rxlen } = s) ∧
    (∀ i : RegIndex, i ∈ [(1 : RegIndex), 5, 6, 7, 8, 9, 10, 11, 12, 13, 14, 15] → perform (.writeReg i w) s = .next s)

/-- R44 with R18 and R21: what a host read of each register returns, and that it has no other effect. That the value is put at
the head of replies is the model's choice (log entry 5). -/
def Obligations.HostRegisterReads : Prop :=
  ∀ s : State,
    (∀ i : RegIndex, perform (.readReg i) s = .next { s with replies := .reg (readReg i s) :: s.replies }) ∧
    (readReg 1 s).toNat = s.status.toNat % 64 ∧ (readReg 2 s).toNat = s.paylen.toNat % 16384 ∧
    (readReg 3 s).toNat = s.txlen.toNat % 16384 ∧ (readReg 4 s).toNat = s.rxlen.toNat % 16384 ∧
    readReg 5 s = s.flags ∧ readReg 6 s = s.csum ∧ (readReg 7 s).toNat = s.res.toNat % 2 ∧ readReg 0 s = 0 ∧
    (∀ i : RegIndex, 8 ≤ i.toNat → readReg i s = 0)

/-- R36: a reserved index reads 0x0000, and writing it changes no state and raises no error. That the value read is put at the
head of replies is the model's choice (log entry 5). -/
def Obligations.ReservedIndicesReadZeroIgnoreWrites : Prop :=
  ∀ (i : RegIndex) (w : Word) (s : State), 8 ≤ i.toNat →
    perform (.readReg i) s = .next { s with replies := .reg 0x0000 :: s.replies } ∧ perform (.writeReg i w) s = .next s

/-- R45: a host buffer write makes that byte read as written, changes no other byte of either buffer and no register; a read
returns the byte and changes nothing. That the byte is put at the head of replies is the model's choice (log entry 5). -/
def Obligations.HostBufferAccess : Prop :=
  ∀ (b : Buf) (a : BufAddr) (v : Byte) (s : State),
    (∃ t, perform (.writeBuf b a v) s = .next t ∧ readByte b a.toNat t = v ∧
      (∀ (c : Buf) (k : Nat), c ≠ b ∨ k ≠ a.toNat → readByte c k t = readByte c k s) ∧
      { t with tx := s.tx, rx := s.rx } = s) ∧
    perform (.readBuf b a) s = .next { s with replies := .byte (readByte b a.toNat s) :: s.replies }

/-! ### Reset -/

/-- R40: after reset every register reads 0x0000, whether at power-on or from any state. -/
def Obligations.ResetClearsEveryRegister : Prop :=
  (∀ i : RegIndex, readReg i State.reset = 0x0000) ∧
  (∀ s : State, ∃ t, perform .reset s = .next t ∧ (∀ i : RegIndex, readReg i t = 0x0000) ∧
    t.status = 0 ∧ t.paylen = 0 ∧ t.txlen = 0 ∧ t.rxlen = 0 ∧ t.flags = 0 ∧ t.csum = 0 ∧ t.res = 0)

/-- R41, R124: a reset draws every byte of both buffers anew (the draws are the model's opaque constant, log entry 2), forgets
every written byte, and leaves MAGIC and the host's side alone. -/
def Obligations.ResetDrawsBuffersAnewAndKeepsMagic : Prop :=
  ∀ s : State, ∃ t, perform .reset s = .next t ∧ t.tx = [] ∧ t.rx = [] ∧ t.magic = s.magic ∧
    (∀ (b : Buf) (a : Nat), readByte b a t = Config.resetByte (s.epoch + 1) b a) ∧
    t.inputs = s.inputs ∧ t.replies = s.replies

/-! ### The checksum functions -/

/-- R73: word k of a byte string is its bytes 2k and 2k+1, big-endian, with 0x00 for a missing last byte. -/
def Obligations.WordsArePairedBigEndianAndPadded : Prop :=
  ∀ (bs : List Byte) (k : Nat),
    (wordsOf bs)[k]? = if 2 * k < bs.length then some (bs.getD (2 * k) 0 ++ bs.getD (2 * k + 1) 0 : Word) else none

/-- R74: OCAdd folds the carry of the exact sum back once, and adding 0x0000 changes nothing. -/
def Obligations.EndAroundCarryAddition : Prop :=
  ∀ s w : Word,
    (ocAdd s w).toNat = (s.toNat + w.toNat) % 65536 + (s.toNat + w.toNat) / 65536 ∧ ocAdd s 0x0000 = s

/-- R79: the closed form of OCSum, with its two consequences. -/
def Obligations.ChecksumSumClosedForm : Prop :=
  ∀ bs : List Byte,
    let sigma := ((wordsOf bs).map BitVec.toNat).sum
    (ocSum bs).toNat = (if sigma = 0 then 0 else 1 + (sigma - 1) % 65535) ∧
    ((∃ b ∈ bs, b ≠ 0) → ocSum bs ≠ 0x0000) ∧ (ocSum bs).toNat % 65535 = sigma % 65535

/-- R76: Checksum is the complement of the sum, 0x0000 is kept, and the corner values of the rule. -/
def Obligations.ChecksumIsTheComplementOfTheSum : Prop :=
  (∀ bs : List Byte, (checksum bs).toNat = 0xFFFF - (ocSum bs).toNat) ∧ checksum [] = 0xFFFF ∧
  (∀ n : Nat, checksum (List.replicate n 0x00) = 0xFFFF) ∧ (∀ bs : List Byte, ocSum bs = 0xFFFF → checksum bs = 0x0000)

/-- R78: the packet checksum of a packet is the checksum of the rest, the word at bytes 8 and 9 left out. -/
def Obligations.PacketChecksumSumsTheRest : Prop :=
  ∀ bs : List Byte, 10 ≤ bs.length → packetChecksum bs = ~~~(ocSumWords ((wordsOf bs).eraseIdx 4))

/-- R80 (a), (b): the order of the words does not matter, zero words drop out, and a zero byte after an even-length string
changes neither the sum nor the checksum. -/
def Obligations.ChecksumIgnoresOrderAndZeroWords : Prop :=
  (∀ xs ys : List Word, xs.Perm ys → ocSumWords xs = ocSumWords ys) ∧
  (∀ xs ys : List Word, ocSumWords (xs ++ 0x0000 :: ys) = ocSumWords (xs ++ ys)) ∧
  (∀ bs : List Byte, bs.length % 2 = 0 → ocSum (bs ++ [0x00]) = ocSum bs ∧ checksum (bs ++ [0x00]) = checksum bs)

/-- R80 (c): a packet whose bytes 8 and 9 hold its packet checksum sums to 0xFFFF as a whole. -/
def Obligations.ValidPacketSumsToAllOnes : Prop :=
  ∀ (bs : List Byte) (h : 12 ≤ bs.length), (bs[8] ++ bs[9] : Word) = packetChecksum bs →
    ocSum bs = 0xFFFF ∧ checksum bs = 0x0000

/-- R80 (d): swapping the two bytes of every word swaps the two bytes of the sum. -/
def Obligations.ByteSwappedWordsSwapTheSum : Prop :=
  ∀ ws : List Word,
    ocSumWords (ws.map fun w => (loByte w ++ hiByte w : Word)) = (loByte (ocSumWords ws) ++ hiByte (ocSumWords ws) : Word)

/-! ### The commands, one by one -/

/-- R93: NOP completes and changes nothing, STATUS included; it is the only command that does not write ERR: what any other
command leaves there does not depend on what stood there before. -/
def Obligations.NopCompletesWithNoEffect : Prop :=
  (∀ s : State, exec .nop s = .next s) ∧
  (∀ (i : Instr) (e : ErrBits) (s t u : State), i ≠ .nop → exec i s = .next t →
    exec i { s with status := withErr e s.status } = .next u → statusErr u.status = statusErr t.status)

/-- R94: CLRERR completes, clears ERR and STICKY, keeps MAGIC_OK and LEN_OK, and touches nothing else; it is the only command
that clears STICKY. -/
def Obligations.ClrerrCompletesClearingTheRecord : Prop :=
  (∀ s : State, ∃ t, exec .clrerr s = .next t ∧
    StatusShows s t 0 false (statusMagicOk s.status) (statusLenOk s.status) ∧ { t with status := s.status } = s) ∧
  (∀ (i : Instr) (s t : State), i ≠ .clrerr → exec i s = .next t → statusSticky s.status = true →
    statusSticky t.status = true)

/-- R81: CSUM completes for every length and content; CSUM takes the checksum of the selected buffer's first L bytes as they
are, ERR becomes 0, and nothing else changes. -/
def Obligations.CsumCompletesWithTheBufferChecksum : Prop :=
  ∀ s : State,
    (∃ t, exec (.csum .tx) s = .next t ∧
      t.csum = checksum ((List.range (s.txlen.toNat % 16384)).map fun k => readByte .tx k s) ∧
      (s.txlen.toNat % 16384 = 0 → t.csum = 0xFFFF) ∧
      StatusShows s t 0 (statusSticky s.status) (statusMagicOk s.status) (statusLenOk s.status) ∧
      { t with csum := s.csum, status := s.status } = s) ∧
    (∃ t, exec (.csum .rx) s = .next t ∧
      t.csum = checksum ((List.range (s.rxlen.toNat % 16384)).map fun k => readByte .rx k s) ∧
      (s.rxlen.toNat % 16384 = 0 → t.csum = 0xFFFF) ∧
      StatusShows s t 0 (statusSticky s.status) (statusMagicOk s.status) (statusLenOk s.status) ∧
      { t with csum := s.csum, status := s.status } = s)

/-- R83: BUILD with N = PAYLEN[13:0] <= 16371 completes with the packet of 12 + N bytes in TX: MAGIC, the packet checksum, the
flags word and the payload where it stood; it reports L, F and C, clears ERR, and changes nothing else. With N > 16371 it
raises TOO_LONG and changes ERR and STICKY only. -/
def Obligations.BuildFramesThePacketOrRaisesTooLong : Prop :=
  ∀ (a q : Bit) (s : State),
    let n := s.paylen.toNat % 16384
    let f := mkFlags (BitVec.ofNat 14 (12 + n)) a q
    (n ≤ 16371 → ∃ t, exec (.build a q) s = .next t ∧ t.txlen.toNat = 12 + n ∧ t.flags = f ∧
      t.csum = packetChecksum (readBytes .tx 0 (12 + n) t) ∧
      (∀ (k : Nat) (h : k < 8), readByte .tx k t = s.magic[k]) ∧
      readByte .tx 8 t = hiByte t.csum ∧ readByte .tx 9 t = loByte t.csum ∧
      readByte .tx 10 t = hiByte f ∧ readByte .tx 11 t = loByte f ∧
      (∀ k, 12 ≤ k → readByte .tx k t = readByte .tx k s) ∧
      StatusShows s t 0 (statusSticky s.status) (statusMagicOk s.status) (statusLenOk s.status) ∧
      { t with tx := s.tx, txlen := s.txlen, flags := s.flags, csum := s.csum, status := s.status } = s) ∧
    (16371 < n → ∃ t, exec (.build a q) s = .next t ∧
      StatusShows s t 2 true (statusMagicOk s.status) (statusLenOk s.status) ∧ { t with status := s.status } = s)

/-- R84: BUILDACK completes in every state with the 12-byte packet of ack_bit 1; the checksum depends on S and MAGIC alone. -/
def Obligations.BuildackFramesTheAck : Prop :=
  ∀ (q : Bit) (s : State),
    let f : Word := 0x0032 ||| q.setWidth 16
    ∃ t, exec (.buildack q) s = .next t ∧ t.txlen = 12 ∧ t.flags = f ∧
      t.csum = ~~~(ocAdd (ocSum s.magic.toList) f) ∧ t.csum = packetChecksum (readBytes .tx 0 12 t) ∧
      (∀ (k : Nat) (h : k < 8), readByte .tx k t = s.magic[k]) ∧
      readByte .tx 8 t = hiByte t.csum ∧ readByte .tx 9 t = loByte t.csum ∧
      readByte .tx 10 t = hiByte f ∧ readByte .tx 11 t = loByte f ∧
      (∀ k, 12 ≤ k → readByte .tx k t = readByte .tx k s) ∧
      StatusShows s t 0 (statusSticky s.status) (statusMagicOk s.status) (statusLenOk s.status) ∧
      { t with tx := s.tx, txlen := s.txlen, flags := s.flags, csum := s.csum, status := s.status } = s

/-- R87: VERIFY. With RXLEN < 12 it raises TRUNC, clearing RES, MAGIC_OK and LEN_OK; otherwise it completes with the
recomputed checksum, the flags word, the exact comparison in RES, and the two checks. It changes nothing else. -/
def Obligations.VerifyChecksThePacketOrRaisesTrunc : Prop :=
  ∀ s : State,
    let n := s.rxlen.toNat % 16384
    (n < 12 → ∃ t, exec .verify s = .next t ∧ t.res = 0 ∧ StatusShows s t 3 true false false ∧
      { t with res := s.res, status := s.status } = s) ∧
    (12 ≤ n → ∃ (t : State) (m l : Bool), exec .verify s = .next t ∧
      t.csum = packetChecksum ((List.range n).map fun k => readByte .rx k s) ∧
      t.flags = (readByte .rx 10 s ++ readByte .rx 11 s : Word) ∧
      t.res = (if t.csum = (readByte .rx 8 s ++ readByte .rx 9 s : Word) then 1 else 0) ∧
      (m = true ↔ ∀ (k : Nat) (h : k < 8), readByte .rx k s = s.magic[k]) ∧
      (l = true ↔ t.flags.toNat / 4 = n) ∧
      StatusShows s t 0 (statusSticky s.status) m l ∧
      { t with res := s.res, csum := s.csum, flags := s.flags, status := s.status } = s)

/-- R88: EXTSEQ. With RXLEN < 12 it raises TRUNC with RES cleared; otherwise it completes with RES = bit 0 of RX[11] and FLAGS
the flags word. It changes nothing else. -/
def Obligations.ExtseqReadsSeqBitOrRaisesTrunc : Prop :=
  ∀ s : State,
    (s.rxlen.toNat % 16384 < 12 → ∃ t, exec .extseq s = .next t ∧ t.res = 0 ∧
      StatusShows s t 3 true (statusMagicOk s.status) (statusLenOk s.status) ∧
      { t with res := s.res, status := s.status } = s) ∧
    (12 ≤ s.rxlen.toNat % 16384 → ∃ t, exec .extseq s = .next t ∧
      t.res.toNat = (readByte .rx 11 s).toNat % 2 ∧
      t.flags = (readByte .rx 10 s ++ readByte .rx 11 s : Word) ∧
      StatusShows s t 0 (statusSticky s.status) (statusMagicOk s.status) (statusLenOk s.status) ∧
      { t with res := s.res, flags := s.flags, status := s.status } = s)

/-- R89: EXTACK. As EXTSEQ, with bit 1 of RX[11]. -/
def Obligations.ExtackReadsAckBitOrRaisesTrunc : Prop :=
  ∀ s : State,
    (s.rxlen.toNat % 16384 < 12 → ∃ t, exec .extack s = .next t ∧ t.res = 0 ∧
      StatusShows s t 3 true (statusMagicOk s.status) (statusLenOk s.status) ∧
      { t with res := s.res, status := s.status } = s) ∧
    (12 ≤ s.rxlen.toNat % 16384 → ∃ t, exec .extack s = .next t ∧
      t.res.toNat = (readByte .rx 11 s).toNat / 2 % 2 ∧
      t.flags = (readByte .rx 10 s ++ readByte .rx 11 s : Word) ∧
      StatusShows s t 0 (statusSticky s.status) (statusMagicOk s.status) (statusLenOk s.status) ∧
      { t with res := s.res, flags := s.flags, status := s.status } = s)

/-! ### Errors -/

/-- R98 with R64 and R101: a word that matches no row of R62, written to CMD in any state, records ILLEGAL_CMD and STICKY and
changes nothing else. -/
def Obligations.IllegalWordRecordsIllegalCmdOnly : Prop :=
  ∀ (w : Word) (s : State), legalWord w = false → ∃ t, perform (.writeReg 0 w) s = .next t ∧
    StatusShows s t 1 true (statusMagicOk s.status) (statusLenOk s.status) ∧ { t with status := s.status } = s

/-- R99: BUILD raises TOO_LONG exactly when PAYLEN[13:0] > 16371, and then writes only ERR <- 2 and STICKY <- 1. -/
def Obligations.TooLongExactlyAboveTheLimit : Prop :=
  ∀ (a q : Bit) (s : State), ∃ t, exec (.build a q) s = .next t ∧
    (statusErr t.status = 2 ↔ 16371 < s.paylen.toNat % 16384) ∧
    (16371 < s.paylen.toNat % 16384 → StatusShows s t 2 true (statusMagicOk s.status) (statusLenOk s.status) ∧
      { t with status := s.status } = s)

/-- R100: TRUNC is raised by VERIFY, EXTSEQ and EXTACK exactly when RXLEN[13:0] < 12, with RES cleared, VERIFY's checks
cleared, ERR = 3 and STICKY = 1. -/
def Obligations.TruncExactlyBelowTheHeader : Prop :=
  ∀ (i : Instr) (s : State), i ∈ [Instr.verify, .extseq, .extack] → ∃ t, exec i s = .next t ∧
    (statusErr t.status = 3 ↔ s.rxlen.toNat % 16384 < 12) ∧
    (s.rxlen.toNat % 16384 < 12 → t.res = 0 ∧ statusSticky t.status = true ∧
      (i = .verify → statusMagicOk t.status = false ∧ statusLenOk t.status = false))

/-- R24: what every word written to CMD leaves in STATUS.ERR: NOP leaves it; an illegal word 1, BUILD over the limit 2, a
truncated VERIFY, EXTSEQ or EXTACK 3, and every other command 0. -/
def Obligations.ErrHoldsTheLastOutcome : Prop :=
  ∀ (w : Word) (s t : State), perform (.writeReg 0 w) s = .next t →
    statusErr t.status =
      match decode w with
      | .error _ => 1
      | .ok .nop => statusErr s.status
      | .ok (.build _ _) => if 16371 < s.paylen.toNat % 16384 then 2 else 0
      | .ok .verify => if s.rxlen.toNat % 16384 < 12 then 3 else 0
      | .ok .extseq => if s.rxlen.toNat % 16384 < 12 then 3 else 0
      | .ok .extack => if s.rxlen.toNat % 16384 < 12 then 3 else 0
      | .ok (.csum _) => 0
      | .ok (.buildack _) => 0
      | .ok .clrerr => 0

/-- R25: a step raises STICKY only with an error, always with one, and lowers it only by CLRERR or reset, always by them. -/
def Obligations.StickyRisesWithErrorsAndFallsByClrerrOrReset : Prop :=
  ∀ (s t : State) (x : HostAccess) (rest : List HostAccess), s.inputs = x :: rest → step s = .next t →
    (statusSticky s.status = true → statusSticky t.status = false →
      x = .reset ∨ x = .writeReg 0 (encode .clrerr)) ∧
    (statusSticky s.status = false → statusSticky t.status = true →
      statusErr t.status ≠ 0 ∧ ∃ w, x = .writeReg 0 w ∧ w ≠ encode .nop) ∧
    (∀ w, x = .writeReg 0 w → w ≠ encode .nop → statusErr t.status ≠ 0 → statusSticky t.status = true) ∧
    (x = .reset ∨ x = .writeReg 0 (encode .clrerr) → statusSticky t.status = false)

/-- R26, R27: VERIFY sets MAGIC_OK when RX[0..8) is MAGIC and RXLEN >= 12, and LEN_OK when the flags word's length is RXLEN and
RXLEN >= 12, and clears them otherwise; no other command writes either. Neither changes RES: the checksum alone decides it. -/
def Obligations.VerifyAloneWritesMagicOkAndLenOk : Prop :=
  (∀ s t : State, exec .verify s = .next t →
    (statusMagicOk t.status = true ↔
      12 ≤ s.rxlen.toNat % 16384 ∧ ∀ (k : Nat) (h : k < 8), readByte .rx k s = s.magic[k]) ∧
    (statusLenOk t.status = true ↔
      12 ≤ s.rxlen.toNat % 16384 ∧ (readByte .rx 10 s ++ readByte .rx 11 s : Word).toNat / 4 = s.rxlen.toNat % 16384)) ∧
  (∀ (i : Instr) (s t : State), i ≠ .verify → exec i s = .next t →
    statusMagicOk t.status = statusMagicOk s.status ∧ statusLenOk t.status = statusLenOk s.status) ∧
  (∀ s t : State, exec .verify s = .next t → (t.res = 1 ↔ 12 ≤ packetLen .rx s ∧
    packetChecksum (packetBytes .rx s) = (readByte .rx 8 s ++ readByte .rx 9 s : Word)))

/-! ### What commands leave alone -/

/-- R37: in every column of the table that a command's row marks `-`, the command changes nothing, and no command touches
PAYLEN, RXLEN, RX, TX from byte 12 on, or anything else outside the table. -/
def Obligations.CommandsChangeOnlyTheirColumns : Prop :=
  ∀ (i : Instr) (s t : State), exec i s = .next t →
    (∀ c : Column, c ∉ writtenColumns i s → c.kept s t) ∧ OutsideKept s t

/-- R85 and R39, of the whole machine: a step changes a buffer byte only by a reset, a host write of that very byte, or, for
TX[0..12), a BUILD or BUILDACK. -/
def Obligations.BuffersChangeOnlyByHostWritesAndBuilds : Prop :=
  ∀ (s t : State) (x : HostAccess) (rest : List HostAccess) (b : Buf) (k : Nat),
    s.inputs = x :: rest → step s = .next t → readByte b k t ≠ readByte b k s →
    x = .reset ∨ (∃ (a : BufAddr) (v : Byte), x = .writeBuf b a v ∧ a.toNat = k) ∨
    (b = .tx ∧ k < 12 ∧ ∃ i : Instr, x = .writeReg 0 (encode i) ∧ ((∃ a q, i = .build a q) ∨ ∃ q, i = .buildack q))

/-- R129, R132: between transmissions the packet in TX survives every access but a reset, BUILD, BUILDACK, a write of TX and a
write of TXLEN. -/
def Obligations.BuiltPacketSurvivesOtherAccesses : Prop :=
  ∀ (x : HostAccess) (s t : State), perform x s = .next t → x ≠ .reset → (∀ a v, x ≠ .writeBuf .tx a v) →
    (∀ w, x ≠ .writeReg 3 w) → (∀ (w : Word) (a q : Bit), x = .writeReg 0 w → decode w ≠ .ok (.build a q)) →
    (∀ (w : Word) (q : Bit), x = .writeReg 0 w → decode w ≠ .ok (.buildack q)) →
    packetBytes .tx t = packetBytes .tx s

/-- R131: RES, CSUM, FLAGS and STATUS are snapshots: no host write of a buffer byte or of a register other than CMD updates
them. -/
def Obligations.ResultsAreSnapshots : Prop :=
  (∀ (b : Buf) (a : BufAddr) (v : Byte) (s t : State), perform (.writeBuf b a v) s = .next t →
    t.res = s.res ∧ t.csum = s.csum ∧ t.flags = s.flags ∧ t.status = s.status) ∧
  (∀ (i : RegIndex) (w : Word) (s t : State), i ≠ 0 → perform (.writeReg i w) s = .next t →
    t.res = s.res ∧ t.csum = s.csum ∧ t.flags = s.flags ∧ t.status = s.status)

/-- R46: "A byte beyond a packet's length is never read." CSUM, VERIFY, EXTSEQ and EXTACK give the same registers in two states
that differ only in the buffers' bytes beyond the packets' lengths. -/
def Obligations.BytesBeyondThePacketAreNeverRead : Prop :=
  ∀ (i : Instr) (s s' t t' : State), (∀ a q, i ≠ .build a q) → (∀ q, i ≠ .buildack q) →
    { s' with tx := s.tx, rx := s.rx } = s →
    (∀ k, k < packetLen .tx s → readByte .tx k s' = readByte .tx k s) →
    (∀ k, k < packetLen .rx s → readByte .rx k s' = readByte .rx k s) →
    exec i s = .next t → exec i s' = .next t' → { t' with tx := t.tx, rx := t.rx } = t

/-- R83's corner case: the old contents of TX[0..12) do not affect a build. Two states with the same MAGIC, PAYLEN and bytes
from TX[12] on build the same packet and report the same registers. -/
def Obligations.BuildIgnoresTheOldHeader : Prop :=
  ∀ (a q : Bit) (s s' t t' : State), s.paylen = s'.paylen → s.magic = s'.magic → s.paylen.toNat % 16384 ≤ 16371 →
    (∀ k, 12 ≤ k → readByte .tx k s = readByte .tx k s') →
    exec (.build a q) s = .next t → exec (.build a q) s' = .next t' →
    packetBytes .tx t = packetBytes .tx t' ∧ t.txlen = t'.txlen ∧ t.flags = t'.flags ∧ t.csum = t'.csum

/-- R83's corner case: with PAYLEN = 0 and A = 1, BUILD and BUILDACK with the same S leave the same state. -/
def Obligations.EmptyAckBuildIsBuildack : Prop :=
  ∀ (q : Bit) (s : State), s.paylen.toNat % 16384 = 0 → exec (.build 1 q) s = exec (.buildack q) s

/-! ### Whole-machine properties -/

/-- The invariant holds right after reset. -/
def Obligations.SoundStateAtReset : Prop := State.reset.Inv

/-- Every step, from every sound state, answers a sound state: canonical buffers, reserved bits 0, ERR at most 3, an error on
record only with STICKY, lengths and RES within their defined bits. -/
def Obligations.EveryStepKeepsTheSoundState : Prop :=
  ∀ s t : State, s.Inv → step s = .next t → t.Inv

/-- MAGIC is a constant: no step changes it (R17, R41). That it is carried in State is the model's choice (log entry 1). -/
def Obligations.MagicIsConstant : Prop := ∀ s t : State, step s = .next t → t.magic = s.magic

/-- R51: writing the same word to CMD twice, with no other access between, leaves the same state as writing it once, for every
encoding; a host write of another register or of a buffer byte is idempotent too. -/
def Obligations.HostWritesAreIdempotent : Prop :=
  (∀ (i : RegIndex) (w : Word) (s t : State), s.Inv → perform (.writeReg i w) s = .next t →
    perform (.writeReg i w) t = .next t) ∧
  (∀ (b : Buf) (a : BufAddr) (v : Byte) (s t : State), s.Inv → perform (.writeBuf b a v) s = .next t →
    perform (.writeBuf b a v) t = .next t)

/-- R92: VERIFY, EXTSEQ and EXTACK leave RX as it is, and a second VERIFY with nothing between leaves the same state. -/
def Obligations.ReverificationChangesNothing : Prop :=
  (∀ (i : Instr) (s t : State), i ∈ [Instr.verify, .extseq, .extack] → exec i s = .next t → t.rx = s.rx) ∧
  (∀ s t : State, exec .verify s = .next t → exec .verify t = .next t)

/-- R91: verification is the exact comparison, not the test that all the bytes sum to 0xFFFF. When the rest sums to 0xFFFF and
the stored bytes are FF FF, VERIFY gives RES = 0 although all the bytes sum to 0xFFFF and their checksum is 0x0000; in every
other case of 12 bytes or more the two tests agree. For every length of 12 or more RES is the exact comparison. -/
def Obligations.VerifyComparesExactly : Prop :=
  (∀ s : State, 12 ≤ packetLen .rx s → ocSum (zeroField (packetBytes .rx s)) = 0xFFFF →
    readByte .rx 8 s = 0xFF → readByte .rx 9 s = 0xFF →
    (∃ t, exec .verify s = .next t ∧ t.csum = 0x0000 ∧ t.res = 0) ∧ ocSum (packetBytes .rx s) = 0xFFFF ∧
    ∃ u, exec (.csum .rx) s = .next u ∧ u.csum = 0x0000) ∧
  (∀ s : State, 12 ≤ packetLen .rx s →
    (ocSum (zeroField (packetBytes .rx s)) ≠ 0xFFFF ∨ (readByte .rx 8 s ++ readByte .rx 9 s : Word) ≠ 0xFFFF) →
    ∃ t, exec .verify s = .next t ∧ (t.res = 1 ↔ ocSum (packetBytes .rx s) = 0xFFFF)) ∧
  (∀ s : State, 12 ≤ packetLen .rx s → ∃ t, exec .verify s = .next t ∧
    t.res = if packetChecksum (packetBytes .rx s) = (readByte .rx 8 s ++ readByte .rx 9 s : Word) then 1 else 0)

/-- R86: a packet built, copied to RX by the host and verified is valid, with its flags word, MAGIC_OK and LEN_OK; a second
VERIFY gives RES = 1 again, and EXTSEQ and EXTACK give back S and A. -/
def Obligations.BuildVerifyExtractRoundTrip : Prop :=
  ∀ (a q : Bit) (s t : State), s.paylen.toNat % 16384 ≤ 16371 → exec (.build a q) s = .next t →
    ∃ u v v' w x, performAll (loopback t) t = .next u ∧
      exec .verify u = .next v ∧ v.res = 1 ∧
      v.flags = mkFlags (BitVec.ofNat 14 (12 + s.paylen.toNat % 16384)) a q ∧
      statusMagicOk v.status = true ∧ statusLenOk v.status = true ∧
      exec .verify v = .next v' ∧ v'.res = 1 ∧
      exec .extseq v = .next w ∧ w.res = q.setWidth 16 ∧ exec .extack w = .next x ∧ x.res = a.setWidth 16

/-- R90: if VERIFY gives RES = 1, inverting any one bit of any byte of the packet and verifying again gives RES = 0; two
inverted bits can go undetected. -/
def Obligations.VerifyDetectsEverySingleBitError : Prop :=
  (∀ (s t : State) (k j : Nat), 12 ≤ packetLen .rx s → exec .verify s = .next t → t.res = 1 →
    k < packetLen .rx s → j < 8 →
    ∃ u, exec .verify (writeByte .rx k (readByte .rx k t ^^^ (1 <<< j)) t) = .next u ∧ u.res = 0) ∧
  (∃ (s t u : State) (k l j : Nat), k < l ∧ l < packetLen .rx s ∧ j < 8 ∧ exec .verify s = .next t ∧ t.res = 1 ∧
    exec .verify (writeByte .rx k (readByte .rx k s ^^^ (1 <<< j)) (writeByte .rx l (readByte .rx l s ^^^ (1 <<< j)) s)) =
      .next u ∧ u.res = 1)

/-- R82: after BUILD or BUILDACK, with TX[0..TXLEN) not changed since, `csum tx` gives 0x0000; after a VERIFY that wrote
RES = 1, with RX unchanged, `csum rx` gives 0x0000; the converse does not hold. -/
def Obligations.RawChecksumOfAValidPacketIsZero : Prop :=
  (∀ (a q : Bit) (s t u : State), s.paylen.toNat % 16384 ≤ 16371 → exec (.build a q) s = .next t →
    packetBytes .tx u = packetBytes .tx t → ∃ v, exec (.csum .tx) u = .next v ∧ v.csum = 0x0000) ∧
  (∀ (q : Bit) (s t u : State), exec (.buildack q) s = .next t → packetBytes .tx u = packetBytes .tx t →
    ∃ v, exec (.csum .tx) u = .next v ∧ v.csum = 0x0000) ∧
  (∀ s t u : State, exec .verify s = .next t → t.res = 1 → packetBytes .rx u = packetBytes .rx t →
    ∃ v, exec (.csum .rx) u = .next v ∧ v.csum = 0x0000) ∧
  (∃ s t u : State, exec (.csum .rx) s = .next t ∧ t.csum = 0x0000 ∧ exec .verify s = .next u ∧ u.res = 0)

/-! ### The host's reference engines -/

/-- R112: a response is accepted exactly when it is at least a header long, its checksum is valid, its ack_bit is 1 and its
seq_bit is the sender's; on acceptance seq_bit alternates and the send is over, and otherwise both are kept. With
HOST_DISCARD_MALFORMED false. -/
def Obligations.SenderAcceptsExactlyItsAck : Prop :=
  ∀ (p : HostParams) (d : Datagram) (e : Sender), p.discardMalformed = false → d.length ≤ 16383 →
    ∃ (v : SenderVerdict) (e' : Sender), e.judge p d = .next (v, e') ∧
      (v = .accept ↔ 12 ≤ d.length ∧ packetChecksum d = (d.getD 8 0 ++ d.getD 9 0 : Word) ∧
        (d.getD 11 0).toNat / 2 % 2 = 1 ∧ (d.getD 11 0).toNat % 2 = e.seqBit.toNat) ∧
      e'.seqBit = (if v = .accept then 1 - e.seqBit else e.seqBit) ∧ (v = .accept → e'.acknowledged = true) ∧
      e'.inFlight = (if v = .accept then none else e.inFlight) ∧
      e'.datagram = e.datagram

/-- R111: every datagram a send transmits is the packet it built, TX[0..TXLEN) right after its one BUILD: "a retransmitted
packet is byte-identical to the original". A send that does not begin (log entry 10, R121) transmits nothing. -/
def Obligations.EveryRetransmissionIsIdentical : Prop :=
  ∀ (p : HostParams) (m : String) (evs : List SenderEvent) (e : Sender) (run : SendRun),
    e.send p m evs = .next run →
    (e.inFlight = none ∧ payloadFits (p.msgEncoding m) = true →
      ∃ b, performAll (loadpay (p.msgEncoding m) ++ [command (.build 0 e.seqBit)]) e.block = .next b ∧
        run.sent.head? = some (packetBytes .tx b) ∧ ∀ d ∈ run.sent, d = packetBytes .tx b) ∧
    (e.inFlight ≠ none ∨ payloadFits (p.msgEncoding m) = false → run.sent = [])

/-- R116 to R118 and SRC-4: a valid packet with the expected seq_bit received twice is delivered exactly once, its payload by
the datagram's length, and answered both times with the same ACK for that seq_bit; expected_seq_bit flips once. -/
def Obligations.DuplicatePacketIsDeliveredOnce : Prop :=
  ∀ (p : HostParams) (d : Datagram) (r : Receiver),
    p.discardMalformed = false → p.faultPolicy (r.count + 1) = .pass → p.faultPolicy (r.count + 2) = .pass →
    12 ≤ d.length → d.length ≤ 16383 → packetChecksum d = (d.getD 8 0 ++ d.getD 9 0 : Word) →
    (d.getD 11 0).toNat % 2 = r.expected.toNat →
    ∃ (r₁ r₂ : Receiver) (ack : Datagram), r.onDatagram p d = .next (r₁, some ack) ∧
      r₁.onDatagram p d = .next (r₂, some ack) ∧
      r₁.delivered = r.delivered ++ [d.drop 12] ∧ r₂.delivered = r₁.delivered ∧
      r₁.expected = 1 - r.expected ∧ r₂.expected = r₁.expected ∧ r₂.count = r.count + 2 ∧
      ack.length = 12 ∧ ack.getD 11 0 = (0x32 ||| r.expected.setWidth 8 : Byte)

/-- R115, R122: every datagram is counted; a dropped one is not answered, a corrupted one is answered with the ACK of
1 - expected_seq_bit, and neither delivers anything or flips expected_seq_bit. -/
def Obligations.DroppedAndCorruptedDatagramsDeliverNothing : Prop :=
  ∀ (p : HostParams) (d : Datagram) (r : Receiver), d.length ≤ 16383 → p.faultPolicy (r.count + 1) ≠ .pass →
    ∃ (r' : Receiver) (out : Option Datagram), r.onDatagram p d = .next (r', out) ∧ r'.count = r.count + 1 ∧
      r'.delivered = r.delivered ∧ r'.expected = r.expected ∧
      (p.faultPolicy (r.count + 1) = .drop → out = none) ∧
      (p.faultPolicy (r.count + 1) = .corrupt →
        ∃ ack, out = some ack ∧ ack.length = 12 ∧ ack.getD 11 0 = (0x32 ||| (1 - r.expected).setWidth 8 : Byte))

/-- R121: the sender begins no new send until the prior one completes. A send on a sender with one in progress changes and
transmits nothing; a send leaves one in progress exactly when it still waits; and of sends in sequence only the last may
wait. That a send given up or not begun is complete is the model's choice (log entry 10). -/
def Obligations.NoSendBeginsBeforeThePriorCompletes : Prop :=
  (∀ (p : HostParams) (m : String) (evs : List SenderEvent) (e : Sender), e.inFlight ≠ none →
    e.send p m evs = .next ⟨e, .busy, [], evs⟩) ∧
  (∀ (p : HostParams) (m : String) (evs : List SenderEvent) (e : Sender) (run : SendRun), e.inFlight = none →
    e.send p m evs = .next run → run.result ≠ .busy ∧ (run.sender.inFlight ≠ none ↔ run.result = .waiting)) ∧
  (∀ (p : HostParams) (ms : List String) (evs : List SenderEvent) (e : Sender) (out : Session), e.inFlight = none →
    e.sendAll p ms evs = .next out →
    (∀ run ∈ out.runs, run.result ≠ .busy) ∧ (∀ run ∈ out.runs.dropLast, run.result ≠ .waiting))

/-- R110 and SRC-3: over sends in sequence, seq_bit alternates once for each that succeeds and changes for nothing else: "the
sender's `seq_bit` after N successful sends equals `N mod 2`". -/
def Obligations.SeqBitAlternatesWithEachSuccess : Prop :=
  ∀ (p : HostParams) (ms : List String) (evs : List SenderEvent) (e : Sender) (out : Session),
    e.sendAll p ms evs = .next out →
    out.sender.seqBit.toNat = (e.seqBit.toNat + out.runs.countP fun run => decide (run.result = .success)) % 2

/-- R119, R121: the receive loop processes datagrams one after another, in order, each fully before the next; an interrupt ends
it, and nothing after it is read. -/
def Obligations.ReceiverProcessesEachDatagramFully : Prop :=
  (∀ (p : HostParams) (xs ys : List ReceiverEvent) (r : Receiver), .interrupt ∉ xs →
    r.serve p (xs ++ ys) = andThen (r.serve p xs) fun a => andThen (a.receiver.serve p ys) fun b =>
      .next { b with sent := a.sent ++ b.sent }) ∧
  (∀ (p : HostParams) (xs ys : List ReceiverEvent) (r : Receiver), .interrupt ∉ xs →
    r.serve p (xs ++ .interrupt :: ys) = andThen (r.serve p xs) fun a => .next { a with ended := true, rest := ys })

/-- R114, R118, R122 and SRC-3: over datagrams received in sequence, each is counted, delivered payloads are only added, and
expected_seq_bit flips once for each delivery and for nothing else. -/
def Obligations.ExpectedBitFlipsWithEachDelivery : Prop :=
  ∀ (p : HostParams) (ds : List Datagram) (r : Receiver),
    ∃ (run : ServeRun) (payloads : List (List Byte)), r.serve p (ds.map .datagram) = .next run ∧
      run.receiver.count = r.count + ds.length ∧ run.receiver.delivered = r.delivered ++ payloads ∧
      run.receiver.expected.toNat = (r.expected.toNat + payloads.length) % 2
end

