-- ==== Sys2Proof/Laws/Checksum.lean ====
section
/-! SUPPORT. The unfolding equations of the checksum functions and the shape of the view Z. -/

namespace Sys2Proof.Machine

theorem wordsOf_nil : wordsOf [] = [] := rfl

theorem wordsOf_single (b : Byte) : wordsOf [b] = [beWord b 0x00] := rfl

theorem wordsOf_pair (b₀ b₁ : Byte) (rest : List Byte) : wordsOf (b₀ :: b₁ :: rest) = beWord b₀ b₁ :: wordsOf rest := rfl

/-- An even prefix contributes its own words. -/
theorem wordsOf_append (bs cs : List Byte) (n : Nat) (h : bs.length = 2 * n) :
    wordsOf (bs ++ cs) = wordsOf bs ++ wordsOf cs := by
  induction n generalizing bs with
  | zero => rw [List.length_eq_zero_iff.1 h]; rfl
  | succ n ih =>
    match bs, h with
    | b₀ :: b₁ :: rest, h =>
      rw [List.cons_append, List.cons_append, wordsOf_pair, wordsOf_pair, ih rest (by simp at h; omega), List.cons_append]

theorem ocSumWords_append (xs ys : List Word) : ocSumWords (xs ++ ys) = ys.foldl ocAdd (ocSumWords xs) :=
  List.foldl_append

@[simp] theorem zeroField_length (bs : List Byte) : (zeroField bs).length = bs.length := by simp [zeroField]

/-- The view Z, byte by byte (spec/40_checksum.md R77). -/
theorem zeroField_getElem (bs : List Byte) (k : Nat) (h : k < bs.length) :
    (zeroField bs)[k]'(by simpa using h) = if k = 8 ∨ k = 9 then 0x00 else bs[k] := by
  simp only [zeroField, List.getElem_set]
  by_cases h8 : k = 8
  · simp [h8]
  · by_cases h9 : k = 9
    · simp [h9]
    · simp [h8, h9, Ne.symm h8, Ne.symm h9]

/-- The bytes of a word, most significant first, make the word (spec/20_memory.md R47). -/
theorem beWord_hi_lo (w : Word) : beWord (hiByte w) (loByte w) = w := by
  refine BitVec.eq_of_getLsbD_eq fun k hk => ?_
  simp only [beWord, hiByte, loByte, BitVec.getLsbD_append, BitVec.getLsbD_extractLsb']
  by_cases h : k < 8
  · simp [h]
  · have : 8 + (k - 8) = k := by omega
    simp [h, this]
    omega

@[simp] theorem hiByte_beWord (h l : Byte) : hiByte (beWord h l) = h := by
  refine BitVec.eq_of_getLsbD_eq fun k hk => ?_
  simp only [hiByte, beWord, BitVec.getLsbD_extractLsb', BitVec.getLsbD_append]
  simp [hk]

@[simp] theorem loByte_beWord (h l : Byte) : loByte (beWord h l) = l := by
  refine BitVec.eq_of_getLsbD_eq fun k hk => ?_
  simp only [loByte, beWord, BitVec.getLsbD_extractLsb', BitVec.getLsbD_append]
  simp [hk]

end Sys2Proof.Machine
end

