-- ==== Sys2Proof/Laws/Decode.lean ====
section
/-! SUPPORT. What the fields of a command word say of the word (spec/30_encoding.md R60), and of a word under a mask (R62). -/

namespace Sys2Proof

/-- A command word is its four fields, in order. -/
theorem word_fields (w : Word) : w = opField w ++ rsvField w ++ aField w ++ sField w := by
  refine BitVec.eq_of_getLsbD_eq fun k hk => ?_
  simp only [opField, rsvField, aField, sField, BitVec.getLsbD_append, BitVec.getLsbD_extractLsb']
  interval_cases k <;> simp

theorem opField_and (w m : Word) : opField (w &&& m) = opField w &&& opField m := BitVec.extractLsb'_and

theorem rsvField_and (w m : Word) : rsvField (w &&& m) = rsvField w &&& rsvField m := BitVec.extractLsb'_and

theorem aField_and (w m : Word) : aField (w &&& m) = aField w &&& aField m := BitVec.extractLsb'_and

theorem sField_and (w m : Word) : sField (w &&& m) = sField w &&& sField m := BitVec.extractLsb'_and

end Sys2Proof
end

