-- ==== Sys2Proof/Laws/Flags.lean ====
section
/-! SUPPORT. Each STATUS field reads what was last written to it and keeps its value under writes of the others; the
reserved bits are kept by all. -/

namespace Sys2Proof.Machine

/-- What a write of one STATUS bit does to every bit. -/
theorem getLsbD_withStatusBit {i : Nat} (hi : i < 16) (v : Bool) (w : Word) (k : Nat) :
    (withStatusBit i v w).getLsbD k = if k = i then v else w.getLsbD k := by
  unfold withStatusBit
  by_cases h : k = i
  · subst h
    simp [hi]
  · by_cases h16 : k < 16
    · by_cases hlt : k < i
      · simp [h, h16, hlt]
      · have : k - i ≠ 0 := by omega
        simp [h, h16, this, BitVec.getLsbD_ofBool]
    · have : w.getLsbD k = false := BitVec.getLsbD_of_ge w k (by omega)
      simp [h, h16, this]

/-- What a write of ERR does to every bit. -/
theorem getLsbD_withErr (c : ErrBits) (w : Word) (k : Nat) :
    (withErr c w).getLsbD k = if k < 3 then c.getLsbD k else w.getLsbD k := by
  unfold withErr
  by_cases h16 : k < 16
  · interval_cases k <;> simp
  · have hw : w.getLsbD k = false := BitVec.getLsbD_of_ge w k (by omega)
    have : ¬ k < 3 := by omega
    simp [this, hw, h16]

@[simp] theorem statusErr_withErr (c : ErrBits) (w : Word) : statusErr (withErr c w) = c := by
  refine BitVec.eq_of_getLsbD_eq fun k hk => ?_
  simp [statusErr, getLsbD_withErr, hk]

theorem statusErr_withStatusBit {i : Nat} (h3 : 3 ≤ i) (h16 : i < 16) (v : Bool) (w : Word) :
    statusErr (withStatusBit i v w) = statusErr w := by
  refine BitVec.eq_of_getLsbD_eq fun k hk => ?_
  have : k ≠ i := by omega
  simp [statusErr, getLsbD_withStatusBit h16, this]

@[simp] theorem statusErr_withSticky (v : Bool) (w : Word) : statusErr (withSticky v w) = statusErr w :=
  statusErr_withStatusBit (by decide) (by decide) v w

@[simp] theorem statusErr_withMagicOk (v : Bool) (w : Word) : statusErr (withMagicOk v w) = statusErr w :=
  statusErr_withStatusBit (by decide) (by decide) v w

@[simp] theorem statusErr_withLenOk (v : Bool) (w : Word) : statusErr (withLenOk v w) = statusErr w :=
  statusErr_withStatusBit (by decide) (by decide) v w

@[simp] theorem statusSticky_withErr (c : ErrBits) (w : Word) : statusSticky (withErr c w) = statusSticky w :=
  getLsbD_withErr c w 3

@[simp] theorem statusSticky_withSticky (v : Bool) (w : Word) : statusSticky (withSticky v w) = v :=
  getLsbD_withStatusBit (by decide) v w 3

@[simp] theorem statusSticky_withMagicOk (v : Bool) (w : Word) : statusSticky (withMagicOk v w) = statusSticky w :=
  getLsbD_withStatusBit (by decide) v w 3

@[simp] theorem statusSticky_withLenOk (v : Bool) (w : Word) : statusSticky (withLenOk v w) = statusSticky w :=
  getLsbD_withStatusBit (by decide) v w 3

@[simp] theorem statusMagicOk_withErr (c : ErrBits) (w : Word) : statusMagicOk (withErr c w) = statusMagicOk w :=
  getLsbD_withErr c w 4

@[simp] theorem statusMagicOk_withSticky (v : Bool) (w : Word) : statusMagicOk (withSticky v w) = statusMagicOk w :=
  getLsbD_withStatusBit (by decide) v w 4

@[simp] theorem statusMagicOk_withMagicOk (v : Bool) (w : Word) : statusMagicOk (withMagicOk v w) = v :=
  getLsbD_withStatusBit (by decide) v w 4

@[simp] theorem statusMagicOk_withLenOk (v : Bool) (w : Word) : statusMagicOk (withLenOk v w) = statusMagicOk w :=
  getLsbD_withStatusBit (by decide) v w 4

@[simp] theorem statusLenOk_withErr (c : ErrBits) (w : Word) : statusLenOk (withErr c w) = statusLenOk w :=
  getLsbD_withErr c w 5

@[simp] theorem statusLenOk_withSticky (v : Bool) (w : Word) : statusLenOk (withSticky v w) = statusLenOk w :=
  getLsbD_withStatusBit (by decide) v w 5

@[simp] theorem statusLenOk_withMagicOk (v : Bool) (w : Word) : statusLenOk (withMagicOk v w) = statusLenOk w :=
  getLsbD_withStatusBit (by decide) v w 5

@[simp] theorem statusLenOk_withLenOk (v : Bool) (w : Word) : statusLenOk (withLenOk v w) = v :=
  getLsbD_withStatusBit (by decide) v w 5

/-- The reserved bits [15:6] of STATUS, as a word. -/
theorem reserved_eq_of_bits {v w : Word} (h : ∀ k, 6 ≤ k → v.getLsbD k = w.getLsbD k) :
    v &&& 0xFFC0#16 = w &&& 0xFFC0#16 := by
  refine BitVec.eq_of_getLsbD_eq fun k hk => ?_
  by_cases h6 : 6 ≤ k
  · simp [h k h6]
  · have : k < 6 := by omega
    interval_cases k <;> simp

@[simp] theorem reserved_withErr (c : ErrBits) (w : Word) : withErr c w &&& 0xFFC0#16 = w &&& 0xFFC0#16 :=
  reserved_eq_of_bits fun k hk => by rw [getLsbD_withErr, if_neg (by omega)]

theorem reserved_withStatusBit {i : Nat} (h6 : i < 6) (v : Bool) (w : Word) :
    withStatusBit i v w &&& 0xFFC0#16 = w &&& 0xFFC0#16 :=
  reserved_eq_of_bits fun k hk => by rw [getLsbD_withStatusBit (by omega), if_neg (by omega)]

@[simp] theorem reserved_withSticky (v : Bool) (w : Word) : withSticky v w &&& 0xFFC0#16 = w &&& 0xFFC0#16 :=
  reserved_withStatusBit (by decide) v w

@[simp] theorem reserved_withMagicOk (v : Bool) (w : Word) : withMagicOk v w &&& 0xFFC0#16 = w &&& 0xFFC0#16 :=
  reserved_withStatusBit (by decide) v w

@[simp] theorem reserved_withLenOk (v : Bool) (w : Word) : withLenOk v w &&& 0xFFC0#16 = w &&& 0xFFC0#16 :=
  reserved_withStatusBit (by decide) v w

/-- Two STATUS words that agree in every field are equal. -/
theorem status_ext {v w : Word} (he : statusErr v = statusErr w) (hs : statusSticky v = statusSticky w)
    (hm : statusMagicOk v = statusMagicOk w) (hl : statusLenOk v = statusLenOk w)
    (hr : v &&& 0xFFC0#16 = w &&& 0xFFC0#16) : v = w := by
  refine BitVec.eq_of_getLsbD_eq fun k hk => ?_
  by_cases h3 : k < 3
  · have := congrArg (fun x : ErrBits => x.getLsbD k) he
    simpa [statusErr, h3] using this
  · by_cases h6 : k < 6
    · have : k = 3 ∨ k = 4 ∨ k = 5 := by omega
      rcases this with rfl | rfl | rfl
      · exact hs
      · exact hm
      · exact hl
    · have := congrArg (fun x : Word => x.getLsbD k) hr
      have h6' : 6 ≤ k := by omega
      interval_cases k <;> simpa using this

/-- A legal error code never exceeds 3 (spec/60_exceptions.md R97). -/
theorem ErrCode.bits_le (c : ErrCode) : c.bits.toNat ≤ 3 := by cases c <;> decide

end Sys2Proof.Machine
end

