-- ==== Sys2Proof/Laws/State.lean ====
section
/-! SUPPORT. One lemma per field per update of State, so that no later proof unfolds a record update. -/

namespace Sys2Proof.Machine

/-! ### setStatus -/

@[simp] theorem setStatus_status (w : Word) (s : State) : (setStatus w s).status = w := rfl
@[simp] theorem setStatus_paylen (w : Word) (s : State) : (setStatus w s).paylen = s.paylen := rfl
@[simp] theorem setStatus_txlen (w : Word) (s : State) : (setStatus w s).txlen = s.txlen := rfl
@[simp] theorem setStatus_rxlen (w : Word) (s : State) : (setStatus w s).rxlen = s.rxlen := rfl
@[simp] theorem setStatus_flags (w : Word) (s : State) : (setStatus w s).flags = s.flags := rfl
@[simp] theorem setStatus_csum (w : Word) (s : State) : (setStatus w s).csum = s.csum := rfl
@[simp] theorem setStatus_res (w : Word) (s : State) : (setStatus w s).res = s.res := rfl
@[simp] theorem setStatus_tx (w : Word) (s : State) : (setStatus w s).tx = s.tx := rfl
@[simp] theorem setStatus_rx (w : Word) (s : State) : (setStatus w s).rx = s.rx := rfl
@[simp] theorem setStatus_magic (w : Word) (s : State) : (setStatus w s).magic = s.magic := rfl
@[simp] theorem setStatus_epoch (w : Word) (s : State) : (setStatus w s).epoch = s.epoch := rfl
@[simp] theorem setStatus_inputs (w : Word) (s : State) : (setStatus w s).inputs = s.inputs := rfl
@[simp] theorem setStatus_replies (w : Word) (s : State) : (setStatus w s).replies = s.replies := rfl

/-! ### setTxlen -/

@[simp] theorem setTxlen_status (w : Word) (s : State) : (setTxlen w s).status = s.status := rfl
@[simp] theorem setTxlen_paylen (w : Word) (s : State) : (setTxlen w s).paylen = s.paylen := rfl
@[simp] theorem setTxlen_txlen (w : Word) (s : State) : (setTxlen w s).txlen = w := rfl
@[simp] theorem setTxlen_rxlen (w : Word) (s : State) : (setTxlen w s).rxlen = s.rxlen := rfl
@[simp] theorem setTxlen_flags (w : Word) (s : State) : (setTxlen w s).flags = s.flags := rfl
@[simp] theorem setTxlen_csum (w : Word) (s : State) : (setTxlen w s).csum = s.csum := rfl
@[simp] theorem setTxlen_res (w : Word) (s : State) : (setTxlen w s).res = s.res := rfl
@[simp] theorem setTxlen_tx (w : Word) (s : State) : (setTxlen w s).tx = s.tx := rfl
@[simp] theorem setTxlen_rx (w : Word) (s : State) : (setTxlen w s).rx = s.rx := rfl
@[simp] theorem setTxlen_magic (w : Word) (s : State) : (setTxlen w s).magic = s.magic := rfl
@[simp] theorem setTxlen_epoch (w : Word) (s : State) : (setTxlen w s).epoch = s.epoch := rfl
@[simp] theorem setTxlen_inputs (w : Word) (s : State) : (setTxlen w s).inputs = s.inputs := rfl
@[simp] theorem setTxlen_replies (w : Word) (s : State) : (setTxlen w s).replies = s.replies := rfl

/-! ### setFlags -/

@[simp] theorem setFlags_status (w : Word) (s : State) : (setFlags w s).status = s.status := rfl
@[simp] theorem setFlags_paylen (w : Word) (s : State) : (setFlags w s).paylen = s.paylen := rfl
@[simp] theorem setFlags_txlen (w : Word) (s : State) : (setFlags w s).txlen = s.txlen := rfl
@[simp] theorem setFlags_rxlen (w : Word) (s : State) : (setFlags w s).rxlen = s.rxlen := rfl
@[simp] theorem setFlags_flags (w : Word) (s : State) : (setFlags w s).flags = w := rfl
@[simp] theorem setFlags_csum (w : Word) (s : State) : (setFlags w s).csum = s.csum := rfl
@[simp] theorem setFlags_res (w : Word) (s : State) : (setFlags w s).res = s.res := rfl
@[simp] theorem setFlags_tx (w : Word) (s : State) : (setFlags w s).tx = s.tx := rfl
@[simp] theorem setFlags_rx (w : Word) (s : State) : (setFlags w s).rx = s.rx := rfl
@[simp] theorem setFlags_magic (w : Word) (s : State) : (setFlags w s).magic = s.magic := rfl
@[simp] theorem setFlags_epoch (w : Word) (s : State) : (setFlags w s).epoch = s.epoch := rfl
@[simp] theorem setFlags_inputs (w : Word) (s : State) : (setFlags w s).inputs = s.inputs := rfl
@[simp] theorem setFlags_replies (w : Word) (s : State) : (setFlags w s).replies = s.replies := rfl

/-! ### setCsum -/

@[simp] theorem setCsum_status (w : Word) (s : State) : (setCsum w s).status = s.status := rfl
@[simp] theorem setCsum_paylen (w : Word) (s : State) : (setCsum w s).paylen = s.paylen := rfl
@[simp] theorem setCsum_txlen (w : Word) (s : State) : (setCsum w s).txlen = s.txlen := rfl
@[simp] theorem setCsum_rxlen (w : Word) (s : State) : (setCsum w s).rxlen = s.rxlen := rfl
@[simp] theorem setCsum_flags (w : Word) (s : State) : (setCsum w s).flags = s.flags := rfl
@[simp] theorem setCsum_csum (w : Word) (s : State) : (setCsum w s).csum = w := rfl
@[simp] theorem setCsum_res (w : Word) (s : State) : (setCsum w s).res = s.res := rfl
@[simp] theorem setCsum_tx (w : Word) (s : State) : (setCsum w s).tx = s.tx := rfl
@[simp] theorem setCsum_rx (w : Word) (s : State) : (setCsum w s).rx = s.rx := rfl
@[simp] theorem setCsum_magic (w : Word) (s : State) : (setCsum w s).magic = s.magic := rfl
@[simp] theorem setCsum_epoch (w : Word) (s : State) : (setCsum w s).epoch = s.epoch := rfl
@[simp] theorem setCsum_inputs (w : Word) (s : State) : (setCsum w s).inputs = s.inputs := rfl
@[simp] theorem setCsum_replies (w : Word) (s : State) : (setCsum w s).replies = s.replies := rfl

/-! ### setRes -/

@[simp] theorem setRes_status (w : Word) (s : State) : (setRes w s).status = s.status := rfl
@[simp] theorem setRes_paylen (w : Word) (s : State) : (setRes w s).paylen = s.paylen := rfl
@[simp] theorem setRes_txlen (w : Word) (s : State) : (setRes w s).txlen = s.txlen := rfl
@[simp] theorem setRes_rxlen (w : Word) (s : State) : (setRes w s).rxlen = s.rxlen := rfl
@[simp] theorem setRes_flags (w : Word) (s : State) : (setRes w s).flags = s.flags := rfl
@[simp] theorem setRes_csum (w : Word) (s : State) : (setRes w s).csum = s.csum := rfl
@[simp] theorem setRes_res (w : Word) (s : State) : (setRes w s).res = w := rfl
@[simp] theorem setRes_tx (w : Word) (s : State) : (setRes w s).tx = s.tx := rfl
@[simp] theorem setRes_rx (w : Word) (s : State) : (setRes w s).rx = s.rx := rfl
@[simp] theorem setRes_magic (w : Word) (s : State) : (setRes w s).magic = s.magic := rfl
@[simp] theorem setRes_epoch (w : Word) (s : State) : (setRes w s).epoch = s.epoch := rfl
@[simp] theorem setRes_inputs (w : Word) (s : State) : (setRes w s).inputs = s.inputs := rfl
@[simp] theorem setRes_replies (w : Word) (s : State) : (setRes w s).replies = s.replies := rfl

/-! ### withInputs -/

@[simp] theorem withInputs_status (xs : List HostAccess) (s : State) : (withInputs xs s).status = s.status := rfl
@[simp] theorem withInputs_paylen (xs : List HostAccess) (s : State) : (withInputs xs s).paylen = s.paylen := rfl
@[simp] theorem withInputs_txlen (xs : List HostAccess) (s : State) : (withInputs xs s).txlen = s.txlen := rfl
@[simp] theorem withInputs_rxlen (xs : List HostAccess) (s : State) : (withInputs xs s).rxlen = s.rxlen := rfl
@[simp] theorem withInputs_flags (xs : List HostAccess) (s : State) : (withInputs xs s).flags = s.flags := rfl
@[simp] theorem withInputs_csum (xs : List HostAccess) (s : State) : (withInputs xs s).csum = s.csum := rfl
@[simp] theorem withInputs_res (xs : List HostAccess) (s : State) : (withInputs xs s).res = s.res := rfl
@[simp] theorem withInputs_tx (xs : List HostAccess) (s : State) : (withInputs xs s).tx = s.tx := rfl
@[simp] theorem withInputs_rx (xs : List HostAccess) (s : State) : (withInputs xs s).rx = s.rx := rfl
@[simp] theorem withInputs_magic (xs : List HostAccess) (s : State) : (withInputs xs s).magic = s.magic := rfl
@[simp] theorem withInputs_epoch (xs : List HostAccess) (s : State) : (withInputs xs s).epoch = s.epoch := rfl
@[simp] theorem withInputs_inputs (xs : List HostAccess) (s : State) : (withInputs xs s).inputs = xs := rfl
@[simp] theorem withInputs_replies (xs : List HostAccess) (s : State) : (withInputs xs s).replies = s.replies := rfl

/-! ### reply -/

@[simp] theorem reply_status (r : HostReply) (s : State) : (reply r s).status = s.status := rfl
@[simp] theorem reply_paylen (r : HostReply) (s : State) : (reply r s).paylen = s.paylen := rfl
@[simp] theorem reply_txlen (r : HostReply) (s : State) : (reply r s).txlen = s.txlen := rfl
@[simp] theorem reply_rxlen (r : HostReply) (s : State) : (reply r s).rxlen = s.rxlen := rfl
@[simp] theorem reply_flags (r : HostReply) (s : State) : (reply r s).flags = s.flags := rfl
@[simp] theorem reply_csum (r : HostReply) (s : State) : (reply r s).csum = s.csum := rfl
@[simp] theorem reply_res (r : HostReply) (s : State) : (reply r s).res = s.res := rfl
@[simp] theorem reply_tx (r : HostReply) (s : State) : (reply r s).tx = s.tx := rfl
@[simp] theorem reply_rx (r : HostReply) (s : State) : (reply r s).rx = s.rx := rfl
@[simp] theorem reply_magic (r : HostReply) (s : State) : (reply r s).magic = s.magic := rfl
@[simp] theorem reply_epoch (r : HostReply) (s : State) : (reply r s).epoch = s.epoch := rfl
@[simp] theorem reply_inputs (r : HostReply) (s : State) : (reply r s).inputs = s.inputs := rfl
@[simp] theorem reply_replies (r : HostReply) (s : State) : (reply r s).replies = r :: s.replies := rfl

/-! ### setChecks -/

@[simp] theorem setChecks_status (m l : Bool) (s : State) : (setChecks m l s).status = withLenOk l (withMagicOk m s.status) := rfl
@[simp] theorem setChecks_paylen (m l : Bool) (s : State) : (setChecks m l s).paylen = s.paylen := rfl
@[simp] theorem setChecks_txlen (m l : Bool) (s : State) : (setChecks m l s).txlen = s.txlen := rfl
@[simp] theorem setChecks_rxlen (m l : Bool) (s : State) : (setChecks m l s).rxlen = s.rxlen := rfl
@[simp] theorem setChecks_flags (m l : Bool) (s : State) : (setChecks m l s).flags = s.flags := rfl
@[simp] theorem setChecks_csum (m l : Bool) (s : State) : (setChecks m l s).csum = s.csum := rfl
@[simp] theorem setChecks_res (m l : Bool) (s : State) : (setChecks m l s).res = s.res := rfl
@[simp] theorem setChecks_tx (m l : Bool) (s : State) : (setChecks m l s).tx = s.tx := rfl
@[simp] theorem setChecks_rx (m l : Bool) (s : State) : (setChecks m l s).rx = s.rx := rfl
@[simp] theorem setChecks_magic (m l : Bool) (s : State) : (setChecks m l s).magic = s.magic := rfl
@[simp] theorem setChecks_epoch (m l : Bool) (s : State) : (setChecks m l s).epoch = s.epoch := rfl
@[simp] theorem setChecks_inputs (m l : Bool) (s : State) : (setChecks m l s).inputs = s.inputs := rfl
@[simp] theorem setChecks_replies (m l : Bool) (s : State) : (setChecks m l s).replies = s.replies := rfl

/-! ### raiseError -/

@[simp] theorem raiseError_status (c : ErrCode) (s : State) : (raiseError c s).status = withSticky true (withErr c.bits s.status) := rfl
@[simp] theorem raiseError_paylen (c : ErrCode) (s : State) : (raiseError c s).paylen = s.paylen := rfl
@[simp] theorem raiseError_txlen (c : ErrCode) (s : State) : (raiseError c s).txlen = s.txlen := rfl
@[simp] theorem raiseError_rxlen (c : ErrCode) (s : State) : (raiseError c s).rxlen = s.rxlen := rfl
@[simp] theorem raiseError_flags (c : ErrCode) (s : State) : (raiseError c s).flags = s.flags := rfl
@[simp] theorem raiseError_csum (c : ErrCode) (s : State) : (raiseError c s).csum = s.csum := rfl
@[simp] theorem raiseError_res (c : ErrCode) (s : State) : (raiseError c s).res = s.res := rfl
@[simp] theorem raiseError_tx (c : ErrCode) (s : State) : (raiseError c s).tx = s.tx := rfl
@[simp] theorem raiseError_rx (c : ErrCode) (s : State) : (raiseError c s).rx = s.rx := rfl
@[simp] theorem raiseError_magic (c : ErrCode) (s : State) : (raiseError c s).magic = s.magic := rfl
@[simp] theorem raiseError_epoch (c : ErrCode) (s : State) : (raiseError c s).epoch = s.epoch := rfl
@[simp] theorem raiseError_inputs (c : ErrCode) (s : State) : (raiseError c s).inputs = s.inputs := rfl
@[simp] theorem raiseError_replies (c : ErrCode) (s : State) : (raiseError c s).replies = s.replies := rfl

/-! ### complete -/

@[simp] theorem complete_status (s : State) : (complete s).status = withErr errNone s.status := rfl
@[simp] theorem complete_paylen (s : State) : (complete s).paylen = s.paylen := rfl
@[simp] theorem complete_txlen (s : State) : (complete s).txlen = s.txlen := rfl
@[simp] theorem complete_rxlen (s : State) : (complete s).rxlen = s.rxlen := rfl
@[simp] theorem complete_flags (s : State) : (complete s).flags = s.flags := rfl
@[simp] theorem complete_csum (s : State) : (complete s).csum = s.csum := rfl
@[simp] theorem complete_res (s : State) : (complete s).res = s.res := rfl
@[simp] theorem complete_tx (s : State) : (complete s).tx = s.tx := rfl
@[simp] theorem complete_rx (s : State) : (complete s).rx = s.rx := rfl
@[simp] theorem complete_magic (s : State) : (complete s).magic = s.magic := rfl
@[simp] theorem complete_epoch (s : State) : (complete s).epoch = s.epoch := rfl
@[simp] theorem complete_inputs (s : State) : (complete s).inputs = s.inputs := rfl
@[simp] theorem complete_replies (s : State) : (complete s).replies = s.replies := rfl

/-! ### resetBlock -/

@[simp] theorem resetBlock_status (s : State) : (resetBlock s).status = 0x0000 := rfl
@[simp] theorem resetBlock_paylen (s : State) : (resetBlock s).paylen = 0x0000 := rfl
@[simp] theorem resetBlock_txlen (s : State) : (resetBlock s).txlen = 0x0000 := rfl
@[simp] theorem resetBlock_rxlen (s : State) : (resetBlock s).rxlen = 0x0000 := rfl
@[simp] theorem resetBlock_flags (s : State) : (resetBlock s).flags = 0x0000 := rfl
@[simp] theorem resetBlock_csum (s : State) : (resetBlock s).csum = 0x0000 := rfl
@[simp] theorem resetBlock_res (s : State) : (resetBlock s).res = 0x0000 := rfl
@[simp] theorem resetBlock_tx (s : State) : (resetBlock s).tx = [] := rfl
@[simp] theorem resetBlock_rx (s : State) : (resetBlock s).rx = [] := rfl
@[simp] theorem resetBlock_magic (s : State) : (resetBlock s).magic = s.magic := rfl
@[simp] theorem resetBlock_epoch (s : State) : (resetBlock s).epoch = s.epoch + 1 := rfl
@[simp] theorem resetBlock_inputs (s : State) : (resetBlock s).inputs = s.inputs := rfl
@[simp] theorem resetBlock_replies (s : State) : (resetBlock s).replies = s.replies := rfl

/-! ### Buffer writes -/

@[simp] theorem setBuf_status (b : Buf) (m : Memory) (s : State) : (setBuf b m s).status = s.status := by cases b <;> rfl
@[simp] theorem setBuf_paylen (b : Buf) (m : Memory) (s : State) : (setBuf b m s).paylen = s.paylen := by cases b <;> rfl
@[simp] theorem setBuf_txlen (b : Buf) (m : Memory) (s : State) : (setBuf b m s).txlen = s.txlen := by cases b <;> rfl
@[simp] theorem setBuf_rxlen (b : Buf) (m : Memory) (s : State) : (setBuf b m s).rxlen = s.rxlen := by cases b <;> rfl
@[simp] theorem setBuf_flags (b : Buf) (m : Memory) (s : State) : (setBuf b m s).flags = s.flags := by cases b <;> rfl
@[simp] theorem setBuf_csum (b : Buf) (m : Memory) (s : State) : (setBuf b m s).csum = s.csum := by cases b <;> rfl
@[simp] theorem setBuf_res (b : Buf) (m : Memory) (s : State) : (setBuf b m s).res = s.res := by cases b <;> rfl
@[simp] theorem setBuf_magic (b : Buf) (m : Memory) (s : State) : (setBuf b m s).magic = s.magic := by cases b <;> rfl
@[simp] theorem setBuf_epoch (b : Buf) (m : Memory) (s : State) : (setBuf b m s).epoch = s.epoch := by cases b <;> rfl
@[simp] theorem setBuf_inputs (b : Buf) (m : Memory) (s : State) : (setBuf b m s).inputs = s.inputs := by cases b <;> rfl
@[simp] theorem setBuf_replies (b : Buf) (m : Memory) (s : State) : (setBuf b m s).replies = s.replies := by cases b <;> rfl
@[simp] theorem writeByte_status (b : Buf) (a : Nat) (v : Byte) (s : State) : (writeByte b a v s).status = s.status := setBuf_status ..
@[simp] theorem writeByte_paylen (b : Buf) (a : Nat) (v : Byte) (s : State) : (writeByte b a v s).paylen = s.paylen := setBuf_paylen ..
@[simp] theorem writeByte_txlen (b : Buf) (a : Nat) (v : Byte) (s : State) : (writeByte b a v s).txlen = s.txlen := setBuf_txlen ..
@[simp] theorem writeByte_rxlen (b : Buf) (a : Nat) (v : Byte) (s : State) : (writeByte b a v s).rxlen = s.rxlen := setBuf_rxlen ..
@[simp] theorem writeByte_flags (b : Buf) (a : Nat) (v : Byte) (s : State) : (writeByte b a v s).flags = s.flags := setBuf_flags ..
@[simp] theorem writeByte_csum (b : Buf) (a : Nat) (v : Byte) (s : State) : (writeByte b a v s).csum = s.csum := setBuf_csum ..
@[simp] theorem writeByte_res (b : Buf) (a : Nat) (v : Byte) (s : State) : (writeByte b a v s).res = s.res := setBuf_res ..
@[simp] theorem writeByte_magic (b : Buf) (a : Nat) (v : Byte) (s : State) : (writeByte b a v s).magic = s.magic := setBuf_magic ..
@[simp] theorem writeByte_epoch (b : Buf) (a : Nat) (v : Byte) (s : State) : (writeByte b a v s).epoch = s.epoch := setBuf_epoch ..
@[simp] theorem writeByte_inputs (b : Buf) (a : Nat) (v : Byte) (s : State) : (writeByte b a v s).inputs = s.inputs := setBuf_inputs ..
@[simp] theorem writeByte_replies (b : Buf) (a : Nat) (v : Byte) (s : State) : (writeByte b a v s).replies = s.replies := setBuf_replies ..

@[simp] theorem writeBytes_status (b : Buf) (a : Nat) (vs : List Byte) (s : State) : (writeBytes b a vs s).status = s.status := by
  induction vs generalizing a s with
  | nil => rfl
  | cons v vs ih => rw [writeBytes, ih, writeByte_status]
@[simp] theorem writeBytes_paylen (b : Buf) (a : Nat) (vs : List Byte) (s : State) : (writeBytes b a vs s).paylen = s.paylen := by
  induction vs generalizing a s with
  | nil => rfl
  | cons v vs ih => rw [writeBytes, ih, writeByte_paylen]
@[simp] theorem writeBytes_txlen (b : Buf) (a : Nat) (vs : List Byte) (s : State) : (writeBytes b a vs s).txlen = s.txlen := by
  induction vs generalizing a s with
  | nil => rfl
  | cons v vs ih => rw [writeBytes, ih, writeByte_txlen]
@[simp] theorem writeBytes_rxlen (b : Buf) (a : Nat) (vs : List Byte) (s : State) : (writeBytes b a vs s).rxlen = s.rxlen := by
  induction vs generalizing a s with
  | nil => rfl
  | cons v vs ih => rw [writeBytes, ih, writeByte_rxlen]
@[simp] theorem writeBytes_flags (b : Buf) (a : Nat) (vs : List Byte) (s : State) : (writeBytes b a vs s).flags = s.flags := by
  induction vs generalizing a s with
  | nil => rfl
  | cons v vs ih => rw [writeBytes, ih, writeByte_flags]
@[simp] theorem writeBytes_csum (b : Buf) (a : Nat) (vs : List Byte) (s : State) : (writeBytes b a vs s).csum = s.csum := by
  induction vs generalizing a s with
  | nil => rfl
  | cons v vs ih => rw [writeBytes, ih, writeByte_csum]
@[simp] theorem writeBytes_res (b : Buf) (a : Nat) (vs : List Byte) (s : State) : (writeBytes b a vs s).res = s.res := by
  induction vs generalizing a s with
  | nil => rfl
  | cons v vs ih => rw [writeBytes, ih, writeByte_res]
@[simp] theorem writeBytes_magic (b : Buf) (a : Nat) (vs : List Byte) (s : State) : (writeBytes b a vs s).magic = s.magic := by
  induction vs generalizing a s with
  | nil => rfl
  | cons v vs ih => rw [writeBytes, ih, writeByte_magic]
@[simp] theorem writeBytes_epoch (b : Buf) (a : Nat) (vs : List Byte) (s : State) : (writeBytes b a vs s).epoch = s.epoch := by
  induction vs generalizing a s with
  | nil => rfl
  | cons v vs ih => rw [writeBytes, ih, writeByte_epoch]
@[simp] theorem writeBytes_inputs (b : Buf) (a : Nat) (vs : List Byte) (s : State) : (writeBytes b a vs s).inputs = s.inputs := by
  induction vs generalizing a s with
  | nil => rfl
  | cons v vs ih => rw [writeBytes, ih, writeByte_inputs]
@[simp] theorem writeBytes_replies (b : Buf) (a : Nat) (vs : List Byte) (s : State) : (writeBytes b a vs s).replies = s.replies := by
  induction vs generalizing a s with
  | nil => rfl
  | cons v vs ih => rw [writeBytes, ih, writeByte_replies]

@[simp] theorem bufOf_setBuf_same (b : Buf) (m : Memory) (s : State) : bufOf b (setBuf b m s) = m := by cases b <;> rfl

theorem bufOf_setBuf_other {b c : Buf} (h : c ≠ b) (m : Memory) (s : State) : bufOf c (setBuf b m s) = bufOf c s := by
  cases b <;> cases c <;> first | rfl | exact absurd rfl h

@[simp] theorem writeByte_rx_of_tx (a : Nat) (v : Byte) (s : State) : (writeByte .tx a v s).rx = s.rx := rfl

@[simp] theorem writeByte_tx_of_rx (a : Nat) (v : Byte) (s : State) : (writeByte .rx a v s).tx = s.tx := rfl

@[simp] theorem writeBytes_rx_of_tx (a : Nat) (vs : List Byte) (s : State) : (writeBytes .tx a vs s).rx = s.rx := by
  induction vs generalizing a s with
  | nil => rfl
  | cons v vs ih => rw [writeBytes, ih, writeByte_rx_of_tx]

end Sys2Proof.Machine
end

