-- ==== Sys2Proof/Laws/Memory.lean ====
section
/-! SUPPORT. Buffer laws: a read after a write, the bytes a write leaves alone, the canonical form, and that a read depends
on a buffer's written bytes and the epoch only. -/

namespace Sys2Proof.Machine

/-! ### The list of written bytes -/

theorem Memory.lookup_insert_same (m : Memory) (a : Nat) (v : Byte) : (m.insert a v).lookup a = some v := by
  induction m with
  | nil => simp [Memory.insert, Memory.lookup]
  | cons c m ih =>
    unfold Memory.insert
    split
    · simp [Memory.lookup]
    · split
      · simp [Memory.lookup]
      · rename_i h
        simp only [Memory.lookup, ih]
        exact if_neg fun e => h e.symm

theorem Memory.lookup_insert_other (m : Memory) {a k : Nat} (v : Byte) (h : k ≠ a) :
    (m.insert a v).lookup k = m.lookup k := by
  induction m with
  | nil => simp [Memory.insert, Memory.lookup, Ne.symm h]
  | cons c m ih =>
    unfold Memory.insert
    split
    · simp [Memory.lookup, Ne.symm h]
    · split
      · rename_i e
        simp [Memory.lookup, ← e, Ne.symm h]
      · simp only [Memory.lookup, ih]

theorem Memory.mem_insert {m : Memory} {a : Nat} {v : Byte} {c : Host.Cell} (h : c ∈ m.insert a v) :
    c = (a, v) ∨ c ∈ m := by
  induction m with
  | nil => simpa [Memory.insert] using h
  | cons d m ih =>
    unfold Memory.insert at h
    split at h
    · simpa using h
    · split at h
      · rcases List.mem_cons.1 h with e | e
        · exact .inl e
        · exact .inr (List.mem_cons_of_mem _ e)
      · rcases List.mem_cons.1 h with e | e
        · exact .inr (e ▸ List.mem_cons_self)
        · exact (ih e).imp_right (List.mem_cons_of_mem _)

/-- No written byte is a canonical memory. -/
theorem Memory.wf_nil : Memory.wf [] := by decide

/-- A write within a buffer's addresses keeps the canonical form. -/
theorem Memory.wf_insert {m : Memory} (h : m.wf) {a : Nat} (ha : a < Config.bufBytes) (v : Byte) :
    (m.insert a v).wf := by
  refine ⟨?_, fun c hc => (Memory.mem_insert hc).elim (fun e => e ▸ ha) (h.2 c)⟩
  have sorted := h.1
  clear h
  induction m with
  | nil => exact List.pairwise_singleton _ _
  | cons d m ih =>
    obtain ⟨hd, hm⟩ := List.pairwise_cons.1 sorted
    unfold Memory.insert
    split
    · rename_i lt
      refine List.pairwise_cons.2 ⟨fun c hc => ?_, sorted⟩
      rcases List.mem_cons.1 hc with e | e
      · exact e ▸ lt
      · exact Nat.lt_trans lt (hd c e)
    · split
      · rename_i e
        exact List.pairwise_cons.2 ⟨fun c hc => e ▸ hd c hc, hm⟩
      · rename_i nlt ne
        refine List.pairwise_cons.2 ⟨fun c hc => ?_, ih hm⟩
        rcases Memory.mem_insert hc with e | e
        · subst e
          show d.1 < a
          omega
        · exact hd c e

/-- An address below every listed one is unlisted. -/
theorem Memory.lookup_eq_none {m : Memory} {a : Nat} (h : ∀ c ∈ m, a < c.1) : m.lookup a = none := by
  induction m with
  | nil => rfl
  | cons c m ih =>
    have hc : c.1 ≠ a := by
      have := h c List.mem_cons_self
      omega
    rw [Memory.lookup, if_neg hc]
    exact ih fun d hd => h d (List.mem_cons_of_mem _ hd)

/-- Equal memories are equal data: two canonical memories with the same written value at every address are the same list. -/
theorem Memory.ext_of_wf {m n : Memory} (hm : m.wf) (hn : n.wf) (h : ∀ a, m.lookup a = n.lookup a) : m = n := by
  have sm := hm.1
  have sn := hn.1
  clear hm hn
  induction m generalizing n with
  | nil =>
    cases n with
    | nil => rfl
    | cons d n => simpa [Memory.lookup] using h d.1
  | cons c m ih =>
    cases n with
    | nil => simpa [Memory.lookup] using h c.1
    | cons d n =>
      obtain ⟨hc, hm⟩ := List.pairwise_cons.1 sm
      obtain ⟨hd, hn⟩ := List.pairwise_cons.1 sn
      have key : c.1 = d.1 := by
        rcases Nat.lt_trichotomy c.1 d.1 with lt | e | lt
        · have hnone : Memory.lookup (d :: n) c.1 = none :=
            Memory.lookup_eq_none (List.forall_mem_cons.2 ⟨lt, fun e he => Nat.lt_trans lt (hd e he)⟩)
          have := h c.1
          rw [hnone] at this
          simp [Memory.lookup] at this
        · exact e
        · have hnone : Memory.lookup (c :: m) d.1 = none :=
            Memory.lookup_eq_none (List.forall_mem_cons.2 ⟨lt, fun e he => Nat.lt_trans lt (hc e he)⟩)
          have := h d.1
          rw [hnone] at this
          simp [Memory.lookup] at this
      have head := h c.1
      simp only [Memory.lookup, key, if_true] at head
      have hcd : c = d := Prod.ext key (Option.some.inj head)
      subst hcd
      congr 1
      refine ih (fun a => ?_) hm hn
      by_cases ha : c.1 = a
      · rw [Memory.lookup_eq_none (ha ▸ hc), Memory.lookup_eq_none (ha ▸ hd)]
      · simpa [Memory.lookup, ha] using h a

/-! ### Bytes of a buffer -/

/-- A read depends on the buffer's written bytes and the epoch alone. -/
theorem readByte_congr {b : Buf} {s t : State} (hb : bufOf b t = bufOf b s) (he : t.epoch = s.epoch) (a : Nat) :
    readByte b a t = readByte b a s := by
  unfold readByte
  rw [hb, he]

theorem readBytes_congr {b : Buf} {s t : State} {a n : Nat}
    (h : ∀ k, a ≤ k → k < a + n → readByte b k t = readByte b k s) : readBytes b a n t = readBytes b a n s := by
  unfold readBytes
  refine List.map_congr_left fun k hk => ?_
  have := List.mem_range'_1.1 hk
  exact h k this.1 this.2

@[simp] theorem readBytes_length (b : Buf) (a n : Nat) (s : State) : (readBytes b a n s).length = n := by
  simp [readBytes]

theorem readBytes_getElem (b : Buf) (a n : Nat) (s : State) (k : Nat) (h : k < (readBytes b a n s).length) :
    (readBytes b a n s)[k] = readByte b (a + k) s := by
  simp [readBytes]

@[simp] theorem readByte_setStatus (b : Buf) (a : Nat) (w : Word) (s : State) :
    readByte b a (setStatus w s) = readByte b a s := by cases b <;> rfl

@[simp] theorem readByte_setTxlen (b : Buf) (a : Nat) (w : Word) (s : State) :
    readByte b a (setTxlen w s) = readByte b a s := by cases b <;> rfl

@[simp] theorem readByte_setFlags (b : Buf) (a : Nat) (w : Word) (s : State) :
    readByte b a (setFlags w s) = readByte b a s := by cases b <;> rfl

@[simp] theorem readByte_setCsum (b : Buf) (a : Nat) (w : Word) (s : State) :
    readByte b a (setCsum w s) = readByte b a s := by cases b <;> rfl

@[simp] theorem readByte_setRes (b : Buf) (a : Nat) (w : Word) (s : State) :
    readByte b a (setRes w s) = readByte b a s := by cases b <;> rfl

@[simp] theorem readByte_setChecks (b : Buf) (a : Nat) (m l : Bool) (s : State) :
    readByte b a (setChecks m l s) = readByte b a s := by cases b <;> rfl

@[simp] theorem readByte_raiseError (b : Buf) (a : Nat) (c : ErrCode) (s : State) :
    readByte b a (raiseError c s) = readByte b a s := by cases b <;> rfl

@[simp] theorem readByte_complete (b : Buf) (a : Nat) (s : State) :
    readByte b a (complete s) = readByte b a s := by cases b <;> rfl

@[simp] theorem readByte_withInputs (b : Buf) (a : Nat) (xs : List HostAccess) (s : State) :
    readByte b a (withInputs xs s) = readByte b a s := by cases b <;> rfl

@[simp] theorem readByte_reply (b : Buf) (a : Nat) (r : HostReply) (s : State) :
    readByte b a (reply r s) = readByte b a s := by cases b <;> rfl

/-- A byte written is the byte read. -/
theorem readByte_writeByte_same (b : Buf) (a : Nat) (v : Byte) (s : State) :
    readByte b a (writeByte b a v s) = v := by
  simp [readByte, writeByte, Memory.lookup_insert_same]

/-- A write leaves every other byte of both buffers alone. -/
theorem readByte_writeByte_other {b c : Buf} {a k : Nat} (h : c ≠ b ∨ k ≠ a) (v : Byte) (s : State) :
    readByte c k (writeByte b a v s) = readByte c k s := by
  unfold readByte writeByte
  rw [setBuf_epoch]
  by_cases hb : c = b
  · subst hb
    rw [bufOf_setBuf_same, Memory.lookup_insert_other _ _ (h.resolve_left fun n => n rfl)]
  · rw [bufOf_setBuf_other hb]

/-- A run of bytes written leaves every byte outside it alone. -/
theorem readByte_writeBytes_outside {b c : Buf} {a k : Nat} (vs : List Byte) (s : State)
    (h : c ≠ b ∨ k < a ∨ a + vs.length ≤ k) : readByte c k (writeBytes b a vs s) = readByte c k s := by
  induction vs generalizing a s with
  | nil => rfl
  | cons v vs ih =>
    rw [List.length_cons] at h
    rw [writeBytes, ih _ (h.imp_right fun h => by omega), readByte_writeByte_other (h.imp_right fun h => by omega)]

/-- A run of bytes written is the run read. -/
theorem readByte_writeBytes_inside (b : Buf) (a : Nat) (vs : List Byte) (s : State) (k : Nat) (h : k < vs.length) :
    readByte b (a + k) (writeBytes b a vs s) = vs[k] := by
  induction vs generalizing a s k with
  | nil => exact absurd h (Nat.not_lt_zero k)
  | cons v vs ih =>
    rw [writeBytes]
    cases k with
    | zero => rw [readByte_writeBytes_outside _ _ (.inr (.inl (by omega)))]; exact readByte_writeByte_same ..
    | succ k => simpa [Nat.add_assoc, Nat.add_comm 1 k] using ih (a + 1) (writeByte b a v s) k (by simpa using h)

/-- The written value at each address after a run of bytes. -/
theorem lookup_writeBytes (b : Buf) (a : Nat) (vs : List Byte) (s : State) (k : Nat) :
    (bufOf b (writeBytes b a vs s)).lookup k = if a ≤ k ∧ k < a + vs.length then vs[k - a]? else (bufOf b s).lookup k := by
  induction vs generalizing a s with
  | nil =>
    have : ¬ (a ≤ k ∧ k < a + ([] : List Byte).length) := by simp only [List.length_nil]; omega
    rw [if_neg this]; rfl
  | cons v vs ih =>
    rw [writeBytes, ih, List.length_cons]
    by_cases h : a + 1 ≤ k ∧ k < a + 1 + vs.length
    · rw [if_pos h, if_pos (by omega), show k - a = (k - (a + 1)) + 1 from by omega, List.getElem?_cons_succ]
    · rw [if_neg h, writeByte, bufOf_setBuf_same]
      by_cases hk : k = a
      · rw [if_pos (by omega), hk, Memory.lookup_insert_same]; simp
      · rw [if_neg (by omega), Memory.lookup_insert_other _ _ hk]

/-- Writes within a buffer keep the canonical form of both buffers. -/
theorem writeByte_wf {s : State} (ht : s.tx.wf) (hr : s.rx.wf) (b : Buf) {a : Nat} (ha : a < Config.bufBytes) (v : Byte) :
    (writeByte b a v s).tx.wf ∧ (writeByte b a v s).rx.wf := by
  cases b
  · exact ⟨Memory.wf_insert ht ha v, hr⟩
  · exact ⟨ht, Memory.wf_insert hr ha v⟩

theorem writeBytes_wf {s : State} (ht : s.tx.wf) (hr : s.rx.wf) (b : Buf) {a : Nat} (vs : List Byte)
    (ha : a + vs.length ≤ Config.bufBytes) : (writeBytes b a vs s).tx.wf ∧ (writeBytes b a vs s).rx.wf := by
  induction vs generalizing a s with
  | nil => exact ⟨ht, hr⟩
  | cons v vs ih =>
    rw [List.length_cons] at ha
    have h := writeByte_wf ht hr b (a := a) (by omega) v
    exact ih h.1 h.2 (by omega)

/-- The reset state's buffers are canonical. -/
theorem reset_wf : State.reset.tx.wf ∧ State.reset.rx.wf := ⟨Memory.wf_nil, Memory.wf_nil⟩

end Sys2Proof.Machine
end

