-- ==== Sys2Proof/Laws/Ops.lean ====
section
/-! SUPPORT. What each shared operation can do, said once: framing a packet, extracting a field, and performing host
accesses in order. -/

namespace Sys2Proof.Machine

/-! ### Lengths -/

theorem lengthOf_eq_mod (w : Word) : lengthOf w = w.toNat % 16384 := by
  simp only [lengthOf, BitVec.extractLsb'_toNat]
  norm_num

theorem lengthOf_lt (w : Word) : lengthOf w < Config.bufBytes := (w.extractLsb' 0 14).isLt

theorem lengthOf_lengthWord {n : Nat} (h : n ≤ Config.maxPktLen) : lengthOf (lengthWord n) = n := by
  have : n < 2 ^ 14 := Nat.lt_succ_of_le h
  simp only [lengthOf, lengthWord, BitVec.extractLsb'_toNat, BitVec.toNat_setWidth, BitVec.toNat_ofNat]
  omega

theorem lengthOf_masked {n : Nat} (h : n ≤ Config.maxPktLen) : lengthOf (BitVec.ofNat 16 n &&& 0x3FFF) = n := by
  have : n < 2 ^ 14 := Nat.lt_succ_of_le h
  have hm : n &&& (2 ^ 14 - 1) = n := by rw [Nat.and_two_pow_sub_one_eq_mod]; omega
  have hn : n % 65536 = n := by omega
  simp only [lengthOf, BitVec.extractLsb'_toNat, BitVec.toNat_and, BitVec.toNat_ofNat]
  have h3 : (0x3FFF : Word).toNat = 2 ^ 14 - 1 := rfl
  norm_num at hm h3 ⊢
  rw [hn, h3, hm]
  omega

theorem packetLen_lt (b : Buf) (s : State) : packetLen b s < Config.bufBytes := by
  cases b <;> exact lengthOf_lt _

@[simp] theorem packetBytes_length (b : Buf) (s : State) : (packetBytes b s).length = packetLen b s :=
  readBytes_length ..

/-- A packet's length, as the low 14 bits of its length register. -/
theorem packetLen_eq_mod (b : Buf) (s : State) :
    packetLen b s = (match b with | .tx => s.txlen | .rx => s.rxlen).toNat % 16384 := by
  cases b <;> exact lengthOf_eq_mod _

/-! ### Framing a packet -/

theorem headerBytes_length (m : Magic) (f : Word) : (m.toList ++ [0x00, 0x00, hiByte f, loByte f]).length = 12 := by
  simp

/-- A header written stands in TX[0..12), and every other byte of both buffers is kept. -/
theorem readByte_writeHeader_outside {b : Buf} {k : Nat} (h : b ≠ .tx ∨ 12 ≤ k) (f : Word) (s : State) :
    readByte b k (writeHeader f s) = readByte b k s :=
  readByte_writeBytes_outside _ s (h.imp_right fun h => .inr (by rw [headerBytes_length]; omega))

theorem readByte_writeHeader_inside (f : Word) (s : State) (k : Nat) (h : k < 12) :
    readByte .tx k (writeHeader f s) =
      (s.magic.toList ++ [0x00, 0x00, hiByte f, loByte f])[k]'(by rw [headerBytes_length]; exact h) := by
  unfold writeHeader
  simpa using readByte_writeBytes_inside .tx 0 (s.magic.toList ++ [0x00, 0x00, hiByte f, loByte f]) s k
    (by rw [headerBytes_length]; exact h)

theorem readByte_fillChecksum_outside {b : Buf} {k : Nat} (h : b ≠ .tx ∨ (k ≠ 8 ∧ k ≠ 9)) (c : Word) (s : State) :
    readByte b k (fillChecksum c s) = readByte b k s :=
  readByte_writeBytes_outside _ s (h.imp_right fun h => by simp only [List.length_cons, List.length_nil]; omega)

theorem readByte_fillChecksum_8 (c : Word) (s : State) : readByte .tx 8 (fillChecksum c s) = hiByte c :=
  readByte_writeBytes_inside .tx 8 [hiByte c, loByte c] s 0 (by simp)

theorem readByte_fillChecksum_9 (c : Word) (s : State) : readByte .tx 9 (fillChecksum c s) = loByte c :=
  readByte_writeBytes_inside .tx 8 [hiByte c, loByte c] s 1 (by simp)

/-- The checksum framePacket computes, over the assembly with its checksum field zeroed. -/
theorem framePacket_csum_framed (len : Nat) (f : Word) (s : State) :
    (framePacket len f s).csum = checksum (readBytes .tx 0 len (writeHeader f s)) := rfl

theorem framePacket_tx (len : Nat) (f : Word) (s : State) :
    (framePacket len f s).tx = (fillChecksum (framePacket len f s).csum (writeHeader f s)).tx := rfl

theorem readByte_framePacket (b : Buf) (k len : Nat) (f : Word) (s : State) :
    readByte b k (framePacket len f s) =
      readByte b k (fillChecksum (framePacket len f s).csum (writeHeader f s)) := by
  simp [framePacket]

/-- framePacket writes TX[0..12) only (spec/20_memory.md R46). -/
theorem readByte_framePacket_outside {b : Buf} {k : Nat} (h : b ≠ .tx ∨ 12 ≤ k) (len : Nat) (f : Word) (s : State) :
    readByte b k (framePacket len f s) = readByte b k s := by
  rw [readByte_framePacket, readByte_fillChecksum_outside (h.imp_right fun h => by omega),
    readByte_writeHeader_outside h]

theorem readByte_framePacket_magic (len : Nat) (f : Word) (s : State) (k : Nat) (h : k < 8) :
    readByte .tx k (framePacket len f s) = s.magic[k] := by
  rw [readByte_framePacket, readByte_fillChecksum_outside (.inr (by omega)),
    readByte_writeHeader_inside f s k (by omega), List.getElem_append_left (by simpa using h)]
  simp

theorem readByte_framePacket_8 (len : Nat) (f : Word) (s : State) :
    readByte .tx 8 (framePacket len f s) = hiByte (framePacket len f s).csum := by
  rw [readByte_framePacket, readByte_fillChecksum_8]

theorem readByte_framePacket_9 (len : Nat) (f : Word) (s : State) :
    readByte .tx 9 (framePacket len f s) = loByte (framePacket len f s).csum := by
  rw [readByte_framePacket, readByte_fillChecksum_9]

theorem readByte_framePacket_10 (len : Nat) (f : Word) (s : State) :
    readByte .tx 10 (framePacket len f s) = hiByte f := by
  rw [readByte_framePacket, readByte_fillChecksum_outside (.inr (by omega)),
    readByte_writeHeader_inside f s 10 (by omega), List.getElem_append_right (by simp)]
  simp

theorem readByte_framePacket_11 (len : Nat) (f : Word) (s : State) :
    readByte .tx 11 (framePacket len f s) = loByte f := by
  rw [readByte_framePacket, readByte_fillChecksum_outside (.inr (by omega)),
    readByte_writeHeader_inside f s 11 (by omega), List.getElem_append_right (by simp)]
  simp

/-- The assembly that is summed is the view Z of the finished packet (spec/41_build.md R83, spec/40_checksum.md R77). -/
theorem framePacket_assembly (len : Nat) (f : Word) (s : State) :
    readBytes .tx 0 len (writeHeader f s) = zeroField (readBytes .tx 0 len (framePacket len f s)) := by
  refine List.ext_getElem (by simp) fun k h₁ h₂ => ?_
  rw [readBytes_getElem, zeroField_getElem _ _ (by simpa using h₁), readBytes_getElem, Nat.zero_add]
  by_cases h : k = 8 ∨ k = 9
  · rw [if_pos h, readByte_writeHeader_inside f s k (by omega), List.getElem_append_right (by simp; omega)]
    rcases h with rfl | rfl <;> simp
  · rw [if_neg h, readByte_framePacket, readByte_fillChecksum_outside (.inr (by omega))]

/-- The checksum reported is the packet checksum of the packet built. -/
theorem framePacket_csum (len : Nat) (f : Word) (s : State) :
    (framePacket len f s).csum = packetChecksum (readBytes .tx 0 len (framePacket len f s)) := by
  rw [framePacket_csum_framed, framePacket_assembly]; rfl

/-- What framePacket leaves alone beside TX and the registers it reports in. -/
theorem framePacket_frame (len : Nat) (f : Word) (s : State) :
    { framePacket len f s with status := s.status, txlen := s.txlen, flags := s.flags, csum := s.csum, tx := s.tx } = s := by
  cases s
  simp [framePacket, complete, setStatus, setCsum, setFlags, setTxlen, fillChecksum, writeHeader]

@[simp] theorem framePacket_status (len : Nat) (f : Word) (s : State) :
    (framePacket len f s).status = withErr errNone s.status := by
  simp [framePacket, fillChecksum, writeHeader]

@[simp] theorem framePacket_txlen (len : Nat) (f : Word) (s : State) :
    (framePacket len f s).txlen = lengthWord len := by simp [framePacket]

@[simp] theorem framePacket_flags (len : Nat) (f : Word) (s : State) : (framePacket len f s).flags = f := by
  simp [framePacket]

@[simp] theorem framePacket_rx (len : Nat) (f : Word) (s : State) : (framePacket len f s).rx = s.rx := by
  simp [framePacket, fillChecksum, writeHeader]

@[simp] theorem framePacket_paylen (len : Nat) (f : Word) (s : State) : (framePacket len f s).paylen = s.paylen := by
  simp [framePacket, fillChecksum, writeHeader]

@[simp] theorem framePacket_rxlen (len : Nat) (f : Word) (s : State) : (framePacket len f s).rxlen = s.rxlen := by
  simp [framePacket, fillChecksum, writeHeader]

@[simp] theorem framePacket_res (len : Nat) (f : Word) (s : State) : (framePacket len f s).res = s.res := by
  simp [framePacket, fillChecksum, writeHeader]

@[simp] theorem framePacket_magic (len : Nat) (f : Word) (s : State) : (framePacket len f s).magic = s.magic := by
  simp [framePacket, fillChecksum, writeHeader]

@[simp] theorem framePacket_epoch (len : Nat) (f : Word) (s : State) : (framePacket len f s).epoch = s.epoch := by
  simp [framePacket, fillChecksum, writeHeader]

@[simp] theorem framePacket_inputs (len : Nat) (f : Word) (s : State) : (framePacket len f s).inputs = s.inputs := by
  simp [framePacket, fillChecksum, writeHeader]

@[simp] theorem framePacket_replies (len : Nat) (f : Word) (s : State) : (framePacket len f s).replies = s.replies := by
  simp [framePacket, fillChecksum, writeHeader]

/-- The written values of TX after framing: the twelve header bytes, and beyond them what was written before. -/
theorem framePacket_lookup (len : Nat) (f : Word) (s : State) (k : Nat) :
    (framePacket len f s).tx.lookup k =
      if k < 12 then some (readByte .tx k (framePacket len f s)) else s.tx.lookup k := by
  have h₂ := lookup_writeBytes .tx 8 [hiByte (framePacket len f s).csum, loByte (framePacket len f s).csum]
    (writeHeader f s) k
  have h₁ := lookup_writeBytes .tx 0 (s.magic.toList ++ [0x00, 0x00, hiByte f, loByte f]) s k
  rw [headerBytes_length] at h₁
  change (framePacket len f s).tx.lookup k = _ at h₂
  change (bufOf .tx (writeHeader f s)).lookup k = _ at h₁
  by_cases hk : k < 12
  · have hs : ∃ v, (framePacket len f s).tx.lookup k = some v := by
      rw [h₂]
      split
      · rename_i h
        have : k - 8 < 2 := by simp at h; omega
        exact ⟨_, List.getElem?_eq_getElem (by simpa using this)⟩
      · rw [h₁, if_pos (by omega)]
        exact ⟨_, List.getElem?_eq_getElem (by rw [headerBytes_length]; omega)⟩
    obtain ⟨v, hv⟩ := hs
    rw [if_pos hk, readByte, bufOf, hv]; rfl
  · rw [if_neg hk, h₂, if_neg (by simp only [List.length_cons, List.length_nil]; omega), h₁, if_neg (by omega)]; rfl

theorem framePacket_wf {s : State} (ht : s.tx.wf) (hr : s.rx.wf) (len : Nat) (f : Word) :
    (framePacket len f s).tx.wf := by
  have h₁ := writeBytes_wf ht hr .tx (a := 0) (s.magic.toList ++ [0x00, 0x00, hiByte f, loByte f])
    (by rw [headerBytes_length]; decide)
  have h₂ := writeBytes_wf h₁.1 h₁.2 .tx (a := 8)
    [hiByte (framePacket len f s).csum, loByte (framePacket len f s).csum]
    (by simp only [List.length_cons, List.length_nil]; decide)
  exact h₂.1

/-! ### Extracting a field -/

/-- The two cases of EXTSEQ and EXTACK. -/
theorem extractBit_cases (field : Word → Bit) (s : State) :
    (packetLen .rx s < Config.hdrLen ∧ extractBit field s = raiseError .trunc (setRes 0x0000 s)) ∨
    (Config.hdrLen ≤ packetLen .rx s ∧
      extractBit field s = complete (setRes (bitWord (field (readWord .rx 10 s))) (setFlags (readWord .rx 10 s) s))) := by
  unfold extractBit
  split
  · rename_i h; exact .inl ⟨h, rfl⟩
  · rename_i h; exact .inr ⟨Nat.le_of_not_lt h, rfl⟩

/-! ### Host accesses in order -/

theorem performAll_append (xs ys : List HostAccess) (s t : State) (h : performAll xs s = .next t) :
    performAll (xs ++ ys) s = performAll ys t := by
  induction xs generalizing s with
  | nil => cases h; rfl
  | cons x xs ih =>
    rw [List.cons_append, performAll]
    rw [performAll] at h
    cases hp : perform x s with
    | next u => rw [hp] at h; exact ih u h
    | fault f => cases f
    | refused r => rw [hp] at h; cases h

/-- Bytes written one access each are the bytes written in a run. -/
theorem performAll_wbuf (b : Buf) (vs : List Byte) (a : Nat) (s : State) (h : a + vs.length ≤ Config.bufBytes) :
    performAll (wbuf b a vs) s = .next (writeBytes b a vs s) := by
  have key : ∀ (vs : List Byte) (n : Nat) (s : State), a + n + vs.length ≤ Config.bufBytes →
      performAll ((vs.zipIdx n).map fun p => .writeBuf b (BitVec.ofNat 14 (a + p.2)) p.1) s =
        .next (writeBytes b (a + n) vs s) := by
    intro vs
    induction vs with
    | nil => intros; rfl
    | cons v vs ih =>
      intro n s hn
      rw [List.length_cons] at hn
      have hb : (BitVec.ofNat 14 (a + n)).toNat = a + n := by
        have : a + n < 2 ^ 14 := by unfold Config.bufBytes at hn; omega
        simp only [BitVec.toNat_ofNat]
        omega
      simp only [List.zipIdx_cons, List.map_cons, performAll, perform, hb, writeBytes]
      exact ih (n + 1) _ (by omega)
  exact key vs 0 s h

/-- The state after the host has placed a datagram in RX. -/
def presented (d : List Byte) (s : State) : State :=
  { writeBytes .rx 0 d s with rxlen := BitVec.ofNat 16 d.length &&& 0x3FFF }

/-- Presenting a datagram answers that state. -/
theorem performAll_loadrx (d : List Byte) (s : State) (h : d.length ≤ Config.maxPktLen) :
    performAll (loadrx d) s = .next (presented d s) := by
  have hw := performAll_wbuf .rx d 0 s (by unfold Config.maxPktLen Config.lenBits at h; unfold Config.bufBytes; omega)
  rw [loadrx, performAll_append _ _ _ _ hw]
  rfl

theorem presented_len (d : List Byte) (s : State) (h : d.length ≤ Config.maxPktLen) :
    packetLen .rx (presented d s) = d.length := lengthOf_masked h

theorem presented_byte (d : List Byte) (s : State) (k : Nat) (h : k < d.length) :
    readByte .rx k (presented d s) = d[k] := by
  have e : readByte .rx k (presented d s) = readByte .rx k (writeBytes .rx 0 d s) := rfl
  rw [e]
  simpa using readByte_writeBytes_inside .rx 0 d s k h

theorem presented_packet (d : List Byte) (s : State) (h : d.length ≤ Config.maxPktLen) :
    packetBytes .rx (presented d s) = d := by
  refine List.ext_getElem (by simp [presented_len d s h]) fun k h₁ h₂ => ?_
  refine (readBytes_getElem .rx 0 _ (presented d s) k h₁).trans ?_
  rw [Nat.zero_add, presented_byte d s k h₂]

/-- Presenting a datagram keeps everything but RX and RXLEN. -/
theorem presented_frame (d : List Byte) (s : State) :
    { presented d s with rx := s.rx, rxlen := s.rxlen } = s := by
  have ht : (writeBytes .rx 0 d s).tx = s.tx := by
    generalize 0 = a
    induction d generalizing a s with
    | nil => rfl
    | cons v d ih => rw [writeBytes, ih, writeByte_tx_of_rx]
  cases s
  simp_all [presented]

/-- A command word written to CMD is its command (spec/10_state.md R22). -/
theorem perform_command_of_decode {w : Word} {i : Instr} (h : decode w = .ok i) (s : State) :
    perform (commandAccess w) s = exec i s := by
  show runCommandWord w s = exec i s
  unfold runCommandWord
  rw [h]

end Sys2Proof.Machine
end

