-- ==== Sys2Proof/Laws/Engines.lean ====
section
/-! SUPPORT. What the host engines' shared operations do: sequencing, the sender's bookkeeping, reading RES, presenting a
datagram without touching TX, and answering with an ACK. -/

namespace Sys2Proof.Machine

@[simp] theorem andThen_next {α β : Type} (a : α) (f : α → Host.Outcome β Fault Refusal) : andThen (.next a) f = f a := rfl

@[simp] theorem andThen_refused {α β : Type} (r : Refusal) (f : α → Host.Outcome β Fault Refusal) :
    andThen (.refused r) f = .refused r := rfl

/-- A sequence that goes on went on at its first part. -/
theorem andThen_eq_next {α β : Type} {o : Host.Outcome α Fault Refusal} {f : α → Host.Outcome β Fault Refusal} {b : β}
    (h : andThen o f = .next b) : ∃ a, o = .next a ∧ f a = .next b := by
  cases o with
  | next a => exact ⟨a, rfl, h⟩
  | fault r => cases r
  | refused r => cases h

/-! ### The sender's bookkeeping -/

@[simp] theorem transmit_block (e : Sender) : e.transmit.block = e.block := rfl
@[simp] theorem transmit_seqBit (e : Sender) : e.transmit.seqBit = e.seqBit := rfl
@[simp] theorem transmit_acknowledged (e : Sender) : e.transmit.acknowledged = e.acknowledged := rfl
@[simp] theorem transmit_sentCount (e : Sender) : e.transmit.sentCount = e.sentCount + 1 := rfl
@[simp] theorem transmit_inFlight (e : Sender) : e.transmit.inFlight = e.inFlight := rfl
@[simp] theorem transmit_datagram (e : Sender) : e.transmit.datagram = e.datagram := rfl
@[simp] theorem retransmit_block (e : Sender) : e.retransmit.block = e.block := rfl
@[simp] theorem retransmit_seqBit (e : Sender) : e.retransmit.seqBit = e.seqBit := rfl
@[simp] theorem retransmit_acknowledged (e : Sender) : e.retransmit.acknowledged = e.acknowledged := rfl
@[simp] theorem retransmit_sentCount (e : Sender) : e.retransmit.sentCount = e.sentCount + 1 := rfl
@[simp] theorem retransmit_inFlight (e : Sender) : e.retransmit.inFlight = some (e.retries + 1) := rfl
@[simp] theorem retransmit_datagram (e : Sender) : e.retransmit.datagram = e.datagram := rfl
@[simp] theorem giveUp_block (e : Sender) : e.giveUp.block = e.block := rfl
@[simp] theorem giveUp_seqBit (e : Sender) : e.giveUp.seqBit = e.seqBit := rfl
@[simp] theorem giveUp_acknowledged (e : Sender) : e.giveUp.acknowledged = e.acknowledged := rfl
@[simp] theorem giveUp_sentCount (e : Sender) : e.giveUp.sentCount = e.sentCount := rfl
@[simp] theorem giveUp_inFlight (e : Sender) : e.giveUp.inFlight = none := rfl
@[simp] theorem giveUp_datagram (e : Sender) : e.giveUp.datagram = e.datagram := rfl

/-- Starting a message is its accesses on the block, and the bookkeeping (spec/60_exceptions.md R111). -/
theorem beginSend_eq_next {payload : List Byte} {e e₁ : Sender} (h : e.beginSend payload = .next e₁) :
    ∃ b, performAll (loadpay payload ++ [command (.build 0 e.seqBit)]) e.block = .next b ∧
      e₁ = { e with block := b, acknowledged := false, inFlight := some 0 } := by
  obtain ⟨b, hb, h⟩ := andThen_eq_next h
  exact ⟨b, hb, by cases h; rfl⟩

/-! ### The block as an engine sees it -/

/-- RES as the host reads it, when the block wrote a single bit there. -/
theorem readRes_of_bit {s : State} {b : Bit} (h : s.res = bitWord b) : readRes s = bitWord b := by
  unfold readRes readReg
  show s.res &&& 0x0001 = _
  rw [h]; clear h; revert b; decide

/-- Presenting a datagram does not touch the packet in TX (spec/70_reset_and_hazards.md R129). -/
theorem packetBytes_tx_presented (d : List Byte) (s : State) : packetBytes .tx (presented d s) = packetBytes .tx s := by
  have h := presented_frame d s
  have htx : (presented d s).tx = s.tx := by have := congrArg State.tx h; exact this
  have hep : (presented d s).epoch = s.epoch := by have := congrArg State.epoch h; exact this
  have hlen : (presented d s).txlen = s.txlen := by have := congrArg State.txlen h; exact this
  show readBytes .tx 0 (lengthOf (presented d s).txlen) _ = readBytes .tx 0 (lengthOf s.txlen) s
  rw [hlen]
  exact readBytes_congr fun k _ _ => readByte_congr (b := .tx) htx hep k

/-- Answering is framing the 12-byte ACK and transmitting it (spec/60_exceptions.md R115 to R118). -/
theorem answer_eq (q : Bit) (r : Receiver) :
    r.answer q = .next ({ r with block := framePacket Config.hdrLen (mkFlags (BitVec.ofNat 14 Config.hdrLen) 1 q) r.block },
      some (packetBytes .tx (framePacket Config.hdrLen (mkFlags (BitVec.ofNat 14 Config.hdrLen) 1 q) r.block))) := by
  have hd : decode (encode (.buildack q)) = .ok (.buildack q) := by decide +revert
  have hp : perform (commandAccess (encode (.buildack q))) r.block = exec (.buildack q) r.block :=
    perform_command_of_decode hd _
  unfold Receiver.answer
  show andThen (match perform (commandAccess (encode (.buildack q))) r.block with
    | .next t => performAll [] t
    | .fault f => .fault f
    | .refused x => .refused x) _ = _
  rw [hp]; rfl

end Sys2Proof.Machine
end

