-- ==== Sys2Proof/Laws/PerInstr.lean ====
section
/-! SUPPORT. Statements made constructor by constructor: every command's word belongs to the row of spec/30_encoding.md R62
that carries its own mnemonic. -/

namespace Sys2Proof.Laws.EncodesInOwnRow

/-- The command's word matches the row of the opcode map that has the command's mnemonic (R62). -/
def Statement (i : Instr) : Prop := ∃ r ∈ opcodeMap, r.mnemonic = i.mnemonic ∧ r.admits (encode i) = true

theorem nop : Statement .nop := ⟨⟨"NOP", 0x0000, 0xFFFF⟩, by decide, rfl, by decide⟩

theorem csum (b : Buf) : Statement (.csum b) := ⟨⟨"CSUM", 0x1000, 0xFFFE⟩, by decide, rfl, by cases b <;> decide⟩

theorem build (a q : Bit) : Statement (.build a q) :=
  ⟨⟨"BUILD", 0x2000, 0xFFFC⟩, by decide, rfl, by decide +revert⟩

theorem buildack (q : Bit) : Statement (.buildack q) :=
  ⟨⟨"BUILDACK", 0x3000, 0xFFFE⟩, by decide, rfl, by decide +revert⟩

theorem verify : Statement .verify := ⟨⟨"VERIFY", 0x4000, 0xFFFF⟩, by decide, rfl, by decide⟩

theorem extseq : Statement .extseq := ⟨⟨"EXTSEQ", 0x5000, 0xFFFF⟩, by decide, rfl, by decide⟩

theorem extack : Statement .extack := ⟨⟨"EXTACK", 0x6000, 0xFFFF⟩, by decide, rfl, by decide⟩

theorem clrerr : Statement .clrerr := ⟨⟨"CLRERR", 0x7000, 0xFFFF⟩, by decide, rfl, by decide⟩

end Sys2Proof.Laws.EncodesInOwnRow
end

