-- ==== Sys2Proof/Tests/Slice0.lean ====
section
/-! SUPPORT. Tests: the refusals of each well-formedness check, words and vectors of the spec (expected values from
spec/30_encoding.md and spec/95_test_vectors.md, whose magic is MAGIC_T), and for every obligation with hypotheses a
witness that meets them. -/

namespace Sys2Proof.Tests

open Sys2Proof.Machine

/-! ### Well-formedness smoke -/

theorem test_legalWord_refuses_reserved_bits :
    legalWord 0x2004 = false ∧ legalWord 0x1002 = false ∧ legalWord 0x3002 = false ∧ legalWord 0x4001 = false ∧
    legalWord 0x0001 = false ∧ legalWord 0x7001 = false := by decide

theorem test_legalWord_refuses_unassigned_opcodes : legalWord 0x8000 = false ∧ legalWord 0xFFFF = false := by decide

theorem test_presentable_refuses_16384_bytes {d : List Byte} (h : d.length = 16384) : presentable d = false := by
  rw [presentable, h]; decide

theorem test_presentable_takes_16383_bytes {d : List Byte} (h : d.length = 16383) : presentable d = true := by
  rw [presentable, h]; decide

theorem test_payloadFits_refuses_16372_bytes {p : List Byte} (h : p.length = 16372) : payloadFits p = false := by
  rw [payloadFits, h]; decide

theorem test_payloadFits_takes_16371_bytes {p : List Byte} (h : p.length = 16371) : payloadFits p = true := by
  rw [payloadFits, h]; decide

/-- Lists of those lengths exist. -/
theorem witness_lengths (n : Nat) : ∃ d : List Byte, d.length = n := ⟨List.replicate n 0x00, List.length_replicate⟩

/-- Not a canonical form: an address out of order, twice, or past 16383. -/
theorem test_wf_refuses_bad_memories :
    ¬ Memory.wf [(5, 0x00), (3, 0x00)] ∧ ¬ Memory.wf [(3, 0x00), (3, 0x01)] ∧ ¬ Memory.wf [(16384, 0x00)] := by decide

/-! ### Decoding: words written out field by field, OP_RSV_A_S (R60, R62) -/

theorem test_decode_nop : decode 0b0000_0000000000_0_0 = .ok .nop := by decide
theorem test_decode_csum :
    decode 0b0001_0000000000_0_0 = .ok (.csum .tx) ∧ decode 0b0001_0000000000_0_1 = .ok (.csum .rx) := by decide
theorem test_decode_build :
    decode 0b0010_0000000000_0_0 = .ok (.build 0 0) ∧ decode 0b0010_0000000000_0_1 = .ok (.build 0 1) ∧
    decode 0b0010_0000000000_1_0 = .ok (.build 1 0) ∧ decode 0b0010_0000000000_1_1 = .ok (.build 1 1) := by decide
theorem test_decode_buildack :
    decode 0b0011_0000000000_0_0 = .ok (.buildack 0) ∧ decode 0b0011_0000000000_0_1 = .ok (.buildack 1) := by decide
theorem test_decode_verify : decode 0b0100_0000000000_0_0 = .ok .verify := by decide
theorem test_decode_extseq : decode 0b0101_0000000000_0_0 = .ok .extseq := by decide
theorem test_decode_extack : decode 0b0110_0000000000_0_0 = .ok .extack := by decide
theorem test_decode_clrerr : decode 0b0111_0000000000_0_0 = .ok .clrerr := by decide

/-- Each reserved bit refuses: the lowest and the highest of RSV, and A or S where the row has none (R63). -/
theorem test_decode_refuses_reserved_bits :
    decode 0b0010_0000000001_0_0 = .error .reservedBitSet ∧ decode 0b0010_1000000000_0_0 = .error .reservedBitSet ∧
    decode 0b0001_0000000000_1_0 = .error .reservedBitSet ∧ decode 0b0011_0000000000_1_0 = .error .reservedBitSet ∧
    decode 0b0100_0000000000_0_1 = .error .reservedBitSet ∧ decode 0b0000_0000000000_0_1 = .error .reservedBitSet := by
  decide

theorem test_decode_refuses_unassigned :
    decode 0b1000_0000000000_0_0 = .error (.unassignedOpcode 0b1000) ∧
    decode 0b1111_1111111111_1_1 = .error (.unassignedOpcode 0b1111) := by decide

theorem test_decodeTableWord :
    decodeTableWord 16 0x2001 = some (.build 0 1) ∧ decodeTableWord 16 0x2004 = none ∧ decodeTableWord 16 0x14000 = none := by
  decide

theorem test_encode :
    encode (.csum .rx) = 0x1001 ∧ encode (.build 1 0) = 0x2002 ∧ encode (.build 0 1) = 0x2001 ∧
    encode (.buildack 1) = 0x3001 := by decide

/-- The assembler forms of R70. -/
theorem test_assembler_commands :
    (assembleLine "build 1, 0 ; a data packet").map AsmLine.word = some 0x2002 ∧
    (assembleLine "build a=0, s=1").map AsmLine.word = some 0x2001 ∧
    (assembleLine "csum rx").map AsmLine.word = some 0x1001 ∧ (assembleLine ".cmd 0xF00d").map AsmLine.word = some 0xF00D ∧
    assembleLine "build 2, 0" = none := by decide

/-- The transaction and pseudo forms of R71 and R72. -/
theorem test_assembler_transactions :
    parseLine "wreg PAYLEN, 0x3FF4" = some (.wreg 2 0x3FF4) ∧ parseLine "rreg 9" = some (.rreg 9) ∧
    parseLine "wbuf tx, 0, 12 34 56" = some (.wbuf .tx 0 [0x12, 0x34, 0x56]) ∧
    parseLine "loadpay \"hello\"" = some (.loadpay [0x68, 0x65, 0x6C, 0x6C, 0x6F]) := by decide

/-! ### Small states -/

/-- MAGIC_T, "It is not the hardware's magic" (spec/00_scope.md, glossary). -/
def magicT : Magic := #v[0x01, 0x23, 0x45, 0x67, 0x89, 0xAB, 0xCD, 0xEF]

/-- The reset state with the test magic. -/
def base : State := { State.reset with magic := magicT }

/-- Bytes at rising addresses from a. -/
def cells (a : Nat) (bs : List Byte) : Memory := bs.zipIdx.map fun p => (a + p.2, p.1)

/-- A datagram in RX. -/
def rxState (d : List Byte) : State := { base with rx := cells 0 d, rxlen := BitVec.ofNat 16 d.length }

/-- A payload in TX, ready to build. -/
def payState (p : List Byte) : State := { base with tx := cells 12 p, paylen := BitVec.ofNat 16 p.length }

/-- "hello" in ASCII. -/
def hello : List Byte := [0x68, 0x65, 0x6C, 0x6C, 0x6F]

/-- V-B1's packet. -/
def helloPacket : Datagram :=
  [0x01, 0x23, 0x45, 0x67, 0x89, 0xAB, 0xCD, 0xEF, 0x1D, 0xC4, 0x00, 0x44, 0x68, 0x65, 0x6C, 0x6C, 0x6F]

/-- V-B3's packet: the ACK for seq_bit 0. -/
def ackZero : Datagram := [0x01, 0x23, 0x45, 0x67, 0x89, 0xAB, 0xCD, 0xEF, 0x61, 0xA8, 0x00, 0x32]

/-- V-V9b's packet: the rest sums to 0xFFFF and the stored bytes are FF FF. -/
def onesPacket : Datagram :=
  [0x01, 0x23, 0x45, 0x67, 0x89, 0xAB, 0xCD, 0xEF, 0xFF, 0xFF, 0x00, 0x38, 0x61, 0xA2]

/-- What f sees of the state an outcome goes on in. -/
def sees {α : Type} (f : State → α) (o : Host.Outcome State Fault Refusal) : Option α :=
  match o with
  | .next t => some (f t)
  | .fault _ => none
  | .refused _ => none

/-! ### The checksum functions (V-CS1, V-CS4, V-CS6 to V-CS8, V-CS13) -/

theorem test_checksum_vectors :
    checksum [] = 0xFFFF ∧ checksum [0xAB] = 0x54FF ∧ checksum [0xFF, 0xFF, 0xFF, 0xFF] = 0x0000 ∧
    checksum [0x00, 0x01, 0xF2, 0x03, 0xF4, 0xF5, 0xF6, 0xF7] = 0x220D ∧ ocSum [0x80, 0x00, 0x80, 0x00] = 0x0001 ∧
    ocSum magicT.toList = 0x9E25 := by decide

/-- R69's worked example. -/
theorem test_mkFlags : mkFlags 17 0 0 = 0x0044 ∧ mkFlags 12 1 0 = 0x0032 ∧ mkFlags 16383 1 1 = 0xFFFF := by decide

/-! ### One command each -/

/-- V-K2. -/
theorem test_nop : sees (·.status) (exec .nop { base with status := 0x000A }) = some 0x000A := by decide

/-- V-C2. -/
theorem test_csum_rx :
    sees (·.csum) (exec (.csum .rx) (rxState [0x00, 0x01, 0xF2, 0x03, 0xF4, 0xF5, 0xF6, 0xF7])) = some 0x220D := by decide

/-- V-C8, on the three bytes of V-C4. -/
theorem test_csum_tx :
    sees (fun t => (t.csum, t.status))
      (exec (.csum .tx) { base with tx := cells 0 [0x12, 0x34, 0x56], txlen := 3, status := 0x000A }) =
    some (0x97CB, 0x0008) := by decide

/-- V-B1. -/
theorem test_build_hello :
    sees (fun t => (packetBytes .tx t, t.txlen, t.flags, t.csum)) (exec (.build 0 0) (payState hello)) =
    some (helloPacket, 17, 0x0044, 0x1DC4) := by decide

/-- V-B11. -/
theorem test_build_too_long :
    sees (fun t => (t.status, t.txlen, t.tx)) (exec (.build 0 0) { base with paylen := 0x3FF4 }) = some (0x000A, 0, []) := by
  decide

/-- V-B13: PAYLEN is ignored. -/
theorem test_buildack :
    sees (fun t => (packetBytes .tx t, t.paylen, t.csum)) (exec (.buildack 0) (payState hello)) =
    some (ackZero, 5, 0x61A8) := by decide

/-- V-B18. -/
theorem test_buildack_keeps_sticky :
    sees (fun t => (t.status, t.flags, t.csum)) (exec (.buildack 1) { base with status := 0x000A }) =
    some (0x0008, 0x0033, 0x61A7) := by decide

/-- V-V1. -/
theorem test_verify_valid :
    sees (fun t => (t.res, t.csum, t.flags, t.status)) (exec .verify (rxState helloPacket)) =
    some (1, 0x1DC4, 0x0044, 0x0030) := by decide

/-- V-V9b. -/
theorem test_verify_all_ones_stored :
    sees (fun t => (t.res, t.csum, t.status)) (exec .verify (rxState onesPacket)) = some (0, 0x0000, 0x0030) := by decide

/-- V-E2. -/
theorem test_extseq :
    sees (fun t => (t.res, t.flags)) (exec .extseq { base with rx := cells 10 [0x00, 0x45], rxlen := 17 }) =
    some (1, 0x0045) := by decide

/-- V-E10. -/
theorem test_extseq_trunc :
    sees (fun t => (t.res, t.status)) (exec .extseq { base with rxlen := 11, res := 1, status := 0x0030 }) =
    some (0, 0x003B) := by decide

/-- V-E3. -/
theorem test_extack :
    sees (fun t => (t.res, t.flags)) (exec .extack { base with rx := cells 10 [0x00, 0x32], rxlen := 12 }) =
    some (1, 0x0032) := by decide

/-- V-E2 again: the ack_bit of 0x0045 is 0. -/
theorem test_extack_zero :
    sees (·.res) (exec .extack { base with rx := cells 10 [0x00, 0x45], rxlen := 17, res := 1 }) = some 0 := by decide

/-- V-K4. -/
theorem test_clrerr : sees (·.status) (exec .clrerr { base with status := 0x001A }) = some 0x0010 := by decide

/-- V-K10: an illegal word runs nothing. -/
theorem test_illegal_word :
    sees (fun t => (t.status, t.res)) (perform (.writeReg 0 0x4001) { base with status := 0x0030, res := 1 }) =
    some (0x0039, 1) := by decide

/-- V-H1, V-H4, V-H6. -/
theorem test_host_register_accesses :
    sees (readReg 2) (perform (.writeReg 2 0xFFFF) base) = some 0x3FFF ∧
    sees (readReg 9) (perform (.writeReg 9 0xABCD) base) = some 0x0000 ∧
    sees (readReg 4) (perform (.writeReg 4 0xC00B) base) = some 0x000B := by decide

/-- A step from reset runs the word placed: an illegal one (V-K5), and `nop`, which leaves nothing waiting. -/
theorem test_step_runs_fetch_word :
    sees (·.status) (step (State.reset.withFetchWord 16 0x2004)) = some 0x0009 ∧
    sees (·.inputs) (step (State.reset.withFetchWord 16 0x0000)) = some [] := by decide

/-! ### Witnesses: the hypotheses of each obligation, met together -/

theorem witness_DecodeAndEncodeAgree : decode 0x2003 = .ok (.build 1 1) ∧ legalWord 0x2003 = true := by decide

theorem witness_FlagsWordPacksItsFields : (0 : Nat) ≤ 16383 ∧ (16383 : Nat) ≤ 16383 := by decide

/-- A state whose host has issued one access. -/
def issued (x : HostAccess) (s : State) : State := { s with inputs := [x] }

theorem witness_StepRunsTheDecodedCommand :
    (issued (.writeReg 0 0x4000) base).inputs = .writeReg 0 0x4000 :: [] ∧ decode 0x4000 = .ok .verify := by decide

theorem witness_StepServesOldestAccessOrHolds :
    (issued .reset base).inputs = .reset :: [] ∧ base.inputs = [] := by decide

theorem witness_HostRegisterWrites : (15 : RegIndex) ∈ [(1 : RegIndex), 5, 6, 7, 8, 9, 10, 11, 12, 13, 14, 15] := by decide

theorem witness_ReservedIndices : 8 ≤ (8 : RegIndex).toNat ∧ 8 ≤ (15 : RegIndex).toNat := by decide

theorem witness_HostBufferAccess :
    (Buf.rx ≠ .tx ∨ 16383 ≠ (16383 : BufAddr).toNat) ∧ (Buf.tx ≠ .tx ∨ 16382 ≠ (16383 : BufAddr).toNat) := by decide

theorem witness_ChecksumSumClosedForm : ∃ b ∈ ([0x00, 0x01] : List Byte), b ≠ 0 := by decide

theorem witness_ChecksumIsTheComplementOfTheSum : ocSum [0xFF, 0xFF] = 0xFFFF := by decide

theorem witness_PacketChecksumSumsTheRest : 10 ≤ (List.replicate 10 (0x00 : Byte)).length := by decide

theorem witness_ChecksumIgnoresOrderAndZeroWords :
    ([1, 2] : List Word).Perm [2, 1] ∧ ([] : List Byte).length % 2 = 0 ∧ ([0x12, 0x34] : List Byte).length % 2 = 0 :=
  ⟨List.Perm.swap 2 1 [], by decide, by decide⟩

theorem witness_ValidPacketSumsToAllOnes :
    ∃ h : 12 ≤ ackZero.length, (ackZero[8] ++ ackZero[9] : Word) = packetChecksum ackZero := by decide

theorem witness_CsumLengthZero : base.txlen.toNat % 16384 = 0 ∧ base.rxlen.toNat % 16384 = 0 := by decide

/-- PAYLEN at the limit. -/
def atLimit : State := { base with paylen := 16371 }

/-- PAYLEN one above the limit. -/
def aboveLimit : State := { base with paylen := 16372 }

/-- RXLEN one below a header. -/
def belowHeader : State := { base with rxlen := 11 }

theorem witness_BuildFramesThePacketOrRaisesTooLong :
    atLimit.paylen.toNat % 16384 ≤ 16371 ∧ 16371 < aboveLimit.paylen.toNat % 16384 := by decide

theorem witness_VerifyExtseqExtackLengths :
    belowHeader.rxlen.toNat % 16384 < 12 ∧ 12 ≤ (rxState ackZero).rxlen.toNat % 16384 := by decide

theorem witness_IllegalWordRecordsIllegalCmdOnly : legalWord 0x0001 = false ∧ legalWord 0x8000 = false := by decide

theorem witness_TruncExactlyBelowTheHeader :
    Instr.verify ∈ [Instr.verify, .extseq, .extack] ∧ Instr.extack ∈ [Instr.verify, .extseq, .extack] ∧
    belowHeader.rxlen.toNat % 16384 < 12 := by decide

theorem witness_ErrHoldsTheLastOutcome :
    (∃ t, perform (.writeReg 0 0x2004) base = .next t) ∧ (∃ t, perform (.writeReg 0 0x2000) aboveLimit = .next t) ∧
    (∃ t, perform (.writeReg 0 0x4000) belowHeader = .next t) ∧ (∃ t, perform (.writeReg 0 0x0000) base = .next t) :=
  ⟨⟨_, rfl⟩, ⟨_, rfl⟩, ⟨_, rfl⟩, ⟨_, rfl⟩⟩

/-- The first clause, by CLRERR and by reset. -/
theorem witness_StickyFalls :
    sees (fun t => statusSticky t.status) (step (issued (.writeReg 0 0x7000) { base with status := 0x000A })) = some false ∧
    sees (fun t => statusSticky t.status) (step (issued .reset { base with status := 0x000A })) = some false ∧
    statusSticky (issued .reset { base with status := 0x000A }).status = true := by decide

/-- The second and third clauses, by an illegal word and by a TRUNC. -/
theorem witness_StickyRises :
    sees (fun t => (statusSticky t.status, statusErr t.status)) (step (issued (.writeReg 0 0x0001) base)) = some (true, 1) ∧
    sees (fun t => (statusSticky t.status, statusErr t.status)) (step (issued (.writeReg 0 0x4000) belowHeader)) =
      some (true, 3) ∧
    statusSticky base.status = false ∧ (0x0001 : Word) ≠ encode .nop ∧ (0x4000 : Word) ≠ encode .nop := by decide

theorem witness_VerifyAloneWritesMagicOkAndLenOk :
    (∃ t, exec .verify (rxState ackZero) = .next t) ∧ (∃ t, exec .verify belowHeader = .next t) ∧
    (∃ t, exec (.csum .rx) base = .next t) ∧ Instr.csum .rx ≠ .verify := ⟨⟨_, rfl⟩, ⟨_, rfl⟩, ⟨_, rfl⟩, by decide⟩

theorem witness_CommandsChangeOnlyTheirColumns :
    (∃ t, exec .verify belowHeader = .next t) ∧ Column.flags ∉ writtenColumns .verify belowHeader ∧
    Column.txlen ∉ writtenColumns .verify (rxState ackZero) := ⟨⟨_, rfl⟩, by decide, by decide⟩

theorem witness_BuffersChangeByReset :
    ∃ t, step (issued .reset { base with tx := [(0, Config.resetByte 1 .tx 0 + 1)] }) = .next t ∧
      readByte .tx 0 t ≠ readByte .tx 0 (issued .reset { base with tx := [(0, Config.resetByte 1 .tx 0 + 1)] }) := by
  refine ⟨_, rfl, ?_⟩
  show Config.resetByte 1 .tx 0 ≠ Config.resetByte 1 .tx 0 + 1
  generalize Config.resetByte 1 .tx 0 = v
  bv_omega

theorem witness_BuffersChangeByWrite :
    sees (readByte .rx 0) (step (issued (.writeBuf .rx 0 0x55) (rxState ackZero))) = some 0x55 ∧
    readByte .rx 0 (issued (.writeBuf .rx 0 0x55) (rxState ackZero)) = 0x01 := by decide

theorem witness_BuffersChangeByBuild :
    sees (readByte .tx 0) (step (issued (.writeReg 0 0x3000) { base with tx := [(0, 0x77)] })) = some 0x01 ∧
    readByte .tx 0 (issued (.writeReg 0 0x3000) { base with tx := [(0, 0x77)] }) = 0x77 := by decide

theorem witness_BuiltPacketSurvivesOtherAccesses :
    (∃ t, perform (.writeReg 0 0x4000) (rxState ackZero) = .next t) ∧ HostAccess.writeReg 0 0x4000 ≠ .reset ∧
    (∀ a v, HostAccess.writeReg 0 0x4000 ≠ .writeBuf .tx a v) ∧ (∀ w, HostAccess.writeReg 0 0x4000 ≠ .writeReg 3 w) ∧
    decode 0x4000 = .ok .verify :=
  ⟨⟨_, rfl⟩, nofun, nofun, fun _ h => absurd (HostAccess.writeReg.inj h).1 (by decide), by decide⟩

theorem witness_ResultsAreSnapshots :
    (∃ t, perform (.writeBuf .rx 8 0x00) (rxState ackZero) = .next t) ∧ (4 : RegIndex) ≠ 0 ∧
    ∃ t, perform (.writeReg 4 5) (rxState ackZero) = .next t := ⟨⟨_, rfl⟩, by decide, ⟨_, rfl⟩⟩

/-- As rxState ackZero, with one byte more just beyond the packet. -/
def beyond : State := { rxState ackZero with rx := cells 0 (ackZero ++ [0x99]) }

theorem witness_BytesBeyondThePacketAreNeverRead :
    (∀ a q, Instr.verify ≠ .build a q) ∧ (∀ q, Instr.verify ≠ .buildack q) ∧
    { beyond with tx := (rxState ackZero).tx, rx := (rxState ackZero).rx } = rxState ackZero ∧
    (∀ k, k < packetLen .tx (rxState ackZero) → readByte .tx k beyond = readByte .tx k (rxState ackZero)) ∧
    (∀ k, k < packetLen .rx (rxState ackZero) → readByte .rx k beyond = readByte .rx k (rxState ackZero)) ∧
    (∃ t, exec .verify (rxState ackZero) = .next t) ∧ ∃ t, exec .verify beyond = .next t := by
  rw [show packetLen .rx (rxState ackZero) = 12 by decide, show packetLen .tx (rxState ackZero) = 0 by decide]
  exact ⟨nofun, nofun, rfl, nofun, by decide, ⟨_, rfl⟩, ⟨_, rfl⟩⟩

/-- As atLimit, with another byte at TX[0]. -/
def oldHeader : State := { atLimit with tx := [(0, 0x77)] }

theorem witness_BuildIgnoresTheOldHeader :
    atLimit.paylen = oldHeader.paylen ∧ atLimit.magic = oldHeader.magic ∧ atLimit.paylen.toNat % 16384 ≤ 16371 ∧
    (∀ k, 12 ≤ k → readByte .tx k atLimit = readByte .tx k oldHeader) ∧
    (∃ t, exec (.build 0 0) atLimit = .next t) ∧ ∃ t, exec (.build 0 0) oldHeader = .next t := by
  refine ⟨rfl, rfl, by decide, fun k h => ?_, ⟨_, rfl⟩, ⟨_, rfl⟩⟩
  have h0 : (0 : Nat) ≠ k := by omega
  simp [readByte, bufOf, Memory.lookup, h0, oldHeader, atLimit, base, State.reset]

theorem witness_NopAndClrerr :
    Instr.csum .tx ≠ .nop ∧ (∃ t, exec (.csum .tx) base = .next t) ∧
    (∃ t, exec (.csum .tx) { base with status := withErr 7 base.status } = .next t) ∧ Instr.csum .tx ≠ .clrerr ∧
    statusSticky ({ base with status := 0x000A } : State).status = true ∧
    ∃ t, exec (.csum .tx) { base with status := 0x000A } = .next t :=
  ⟨by decide, ⟨_, rfl⟩, ⟨_, rfl⟩, by decide, by decide, ⟨_, rfl⟩⟩

theorem witness_EmptyAckBuildIsBuildack : base.paylen.toNat % 16384 = 0 := by decide

/-- A sound state with bytes written, an error on record and the lengths at their largest. -/
def busy : State :=
  { rxState ackZero with status := 0x000B, paylen := 0x3FFF, txlen := 0x3FFF, tx := cells 16382 [0x01, 0x02], res := 1 }

theorem busy_inv : busy.Inv := by constructor <;> decide

theorem base_inv : base.Inv := by constructor <;> decide

theorem witness_EveryStepKeepsTheSoundState :
    (issued (.writeReg 0 0x3001) busy).Inv ∧ ∃ t, step (issued (.writeReg 0 0x3001) busy) = .next t :=
  ⟨⟨busy_inv.tx_wf, busy_inv.rx_wf, busy_inv.status_reserved, busy_inv.err_legal, busy_inv.err_sticky, busy_inv.paylen_high,
    busy_inv.txlen_high, busy_inv.rxlen_high, busy_inv.res_high⟩, ⟨_, rfl⟩⟩

theorem witness_MagicIsConstant : ∃ t, step (issued .reset busy) = .next t := ⟨_, rfl⟩

theorem witness_HostWritesAreIdempotent :
    busy.Inv ∧ (∃ t, perform (.writeReg 0 0x2004) busy = .next t) ∧ (∃ t, perform (.writeReg 2 0xFFFF) busy = .next t) ∧
    (∃ t, perform (.writeBuf .tx 16383 0x55) busy = .next t) := ⟨busy_inv, ⟨_, rfl⟩, ⟨_, rfl⟩, ⟨_, rfl⟩⟩

theorem witness_ReverificationChangesNothing :
    Instr.extseq ∈ [Instr.verify, .extseq, .extack] ∧ (∃ t, exec .extseq busy = .next t) ∧
    (∃ t, exec .verify busy = .next t) := ⟨by decide, ⟨_, rfl⟩, ⟨_, rfl⟩⟩

/-- V-V9's packet: the rest sums to 0xFFFF and the stored bytes are 00 00. -/
def zeroSumPacket : Datagram :=
  [0x01, 0x23, 0x45, 0x67, 0x89, 0xAB, 0xCD, 0xEF, 0x00, 0x00, 0x00, 0x38, 0x61, 0xA2]

/-- The first clause, and both ways into the second: another rest, and the rest 0xFFFF with stored bytes 00 00. -/
theorem witness_VerifyComparesExactly :
    (12 ≤ packetLen .rx (rxState onesPacket) ∧ ocSum (zeroField (packetBytes .rx (rxState onesPacket))) = 0xFFFF ∧
      readByte .rx 8 (rxState onesPacket) = 0xFF ∧ readByte .rx 9 (rxState onesPacket) = 0xFF) ∧
    (12 ≤ packetLen .rx (rxState ackZero) ∧ ocSum (zeroField (packetBytes .rx (rxState ackZero))) ≠ 0xFFFF) ∧
    (12 ≤ packetLen .rx (rxState zeroSumPacket) ∧
      ocSum (zeroField (packetBytes .rx (rxState zeroSumPacket))) = 0xFFFF ∧
      (readByte .rx 8 (rxState zeroSumPacket) ++ readByte .rx 9 (rxState zeroSumPacket) : Word) ≠ 0xFFFF) := by decide

theorem witness_BuildVerifyExtractRoundTrip :
    atLimit.paylen.toNat % 16384 ≤ 16371 ∧ (∃ t, exec (.build 1 0) atLimit = .next t) ∧
    (payState hello).paylen.toNat % 16384 ≤ 16371 ∧ ∃ t, exec (.build 0 0) (payState hello) = .next t :=
  ⟨by decide, ⟨_, rfl⟩, by decide, ⟨_, rfl⟩⟩

/-- The last bit of the last byte of a valid packet. -/
theorem witness_VerifyDetectsEverySingleBitError :
    12 ≤ packetLen .rx (rxState helloPacket) ∧ sees (·.res) (exec .verify (rxState helloPacket)) = some 1 ∧
    16 < packetLen .rx (rxState helloPacket) ∧ 7 < 8 := by decide

/-- The hypotheses of the first three clauses, each with the state right after the command as u. -/
theorem witness_RawChecksumOfAValidPacketIsZero :
    (payState hello).paylen.toNat % 16384 ≤ 16371 ∧ (∃ t, exec (.build 0 0) (payState hello) = .next t) ∧
    (∃ t, exec (.buildack 1) base = .next t) ∧ sees (·.res) (exec .verify (rxState helloPacket)) = some 1 :=
  ⟨by decide, ⟨_, rfl⟩, ⟨_, rfl⟩, by decide⟩

/-- The host's reference values, with a fixed message. -/
def params : HostParams := HostParams.reference fun _ => hello

theorem witness_SenderAcceptsExactlyItsAck :
    params.discardMalformed = false ∧ ackZero.length ≤ 16383 ∧ 12 ≤ ackZero.length ∧
    packetChecksum ackZero = (ackZero.getD 8 0 ++ ackZero.getD 9 0 : Word) ∧ (ackZero.getD 11 0).toNat / 2 % 2 = 1 ∧
    (ackZero.getD 11 0).toNat % 2 = (Sender.start base).seqBit.toNat := by decide

/-- A timeout, then the ACK: two transmissions of the same packet, and success (SRC-5). -/
theorem test_send_retransmits :
    (match (Sender.start base).send params "hello" [.timeout, .datagram ackZero] with
      | .next r => some (r.result, r.sent, r.sender.seqBit)
      | _ => none) = some (.success, [helloPacket, helloPacket], 1) := by decide

theorem witness_EveryRetransmissionIsIdentical :
    (Sender.start base).inFlight = none ∧ payloadFits (params.msgEncoding "hello") = true ∧
    ∃ run, (Sender.start base).send params "hello" [.timeout, .datagram ackZero] = .next run ∧ helloPacket ∈ run.sent := by
  refine ⟨rfl, by decide, ?_⟩
  have h := test_send_retransmits
  revert h
  cases (Sender.start base).send params "hello" [.timeout, .datagram ackZero] with
  | next r => intro h; refine ⟨r, rfl, ?_⟩; simp at h; simp [h]
  | fault f => nofun
  | refused r => nofun

/-- A sender whose send is in progress. -/
def waitingSender : Sender := { Sender.start base with inFlight := some 0 }

theorem witness_EveryRetransmissionIsIdentical_notBegun :
    waitingSender.inFlight ≠ none ∧ ∃ run, waitingSender.send params "hello" [] = .next run := ⟨by decide, ⟨_, rfl⟩⟩

/-- The result and the transmissions of each send, and the sender's seq_bit after them. -/
def sessionSees (o : Host.Outcome Session Fault Refusal) : Option (List SendResult × List Nat × Bit) :=
  match o with
  | .next out => some (out.runs.map (·.result), out.runs.map (·.sent.length), out.sender.seqBit)
  | .fault _ => none
  | .refused _ => none

/-- Two sends, the ACKs V-B3 and V-B4: each succeeds, and seq_bit is 2 mod 2 (SRC-3, SRC-6). -/
theorem test_sendAll :
    sessionSees ((Sender.start base).sendAll params ["hello", "hello"]
      [.datagram ackZero, .datagram [0x01, 0x23, 0x45, 0x67, 0x89, 0xAB, 0xCD, 0xEF, 0x61, 0xA7, 0x00, 0x33]]) =
    some ([.success, .success], [1, 1], 0) := by decide

/-- With no answer the first send waits, and the second does not begin (R121). -/
theorem witness_NoSendBeginsBeforeThePriorCompletes :
    waitingSender.inFlight ≠ none ∧ (Sender.start base).inFlight = none ∧
    sessionSees ((Sender.start base).sendAll params ["hello", "hello"] [.timeout]) = some ([.waiting], [2], 0) := by decide

theorem witness_SeqBitAlternatesWithEachSuccess :
    ∃ out, (Sender.start base).sendAll params ["hello", "hello"] [.datagram ackZero] = .next out := by
  have h : sessionSees ((Sender.start base).sendAll params ["hello", "hello"] [.datagram ackZero]) =
      some ([.success, .waiting], [1, 1], 1) := by decide
  revert h
  cases (Sender.start base).sendAll params ["hello", "hello"] [.datagram ackZero] with
  | next out => exact fun _ => ⟨out, rfl⟩
  | fault f => nofun
  | refused r => nofun

theorem witness_ReceiverProcessesEachDatagramFully :
    ReceiverEvent.interrupt ∉ [ReceiverEvent.datagram helloPacket, .datagram helloPacket] := by decide

theorem witness_DuplicatePacketIsDeliveredOnce :
    params.discardMalformed = false ∧ params.faultPolicy ((Receiver.start base).count + 1) = .pass ∧
    params.faultPolicy ((Receiver.start base).count + 2) = .pass ∧ 12 ≤ helloPacket.length ∧ helloPacket.length ≤ 16383 ∧
    packetChecksum helloPacket = (helloPacket.getD 8 0 ++ helloPacket.getD 9 0 : Word) ∧
    (helloPacket.getD 11 0).toNat % 2 = (Receiver.start base).expected.toNat := by decide

/-- Counts 3 (corrupt) and 6 (drop) of the reference policy. -/
theorem witness_DroppedAndCorruptedDatagramsDeliverNothing :
    helloPacket.length ≤ 16383 ∧ params.faultPolicy ({ Receiver.start base with count := 2 }.count + 1) = .corrupt ∧
    params.faultPolicy ({ Receiver.start base with count := 5 }.count + 1) = .drop := by decide

/-- What the receive loop delivered, its expected_seq_bit and count, its answers, and whether it ended. -/
def serveSees (o : Host.Outcome ServeRun Fault Refusal) : Option ((List (List Byte) × Bit × Nat) × List Datagram × Bool) :=
  match o with
  | .next run => some ((run.receiver.delivered, run.receiver.expected, run.receiver.count), run.sent, run.ended)
  | .fault _ => none
  | .refused _ => none

/-- P4's receiver: the packet twice, one delivery and two equal ACKs (SRC-4); what comes after an interrupt is not read. -/
theorem test_serve :
    serveSees ((Receiver.start base).serve params
      [.datagram helloPacket, .datagram helloPacket, .interrupt, .datagram helloPacket]) =
    some (([hello], 1, 2), [ackZero, ackZero], true) := by decide

end Sys2Proof.Tests
end

section
/-! PROOF. Decoding and encoding undo each other, so a command is named by its word (spec/30_encoding.md R60, R62). -/

namespace Sys2Proof

theorem decode_encode (i : Instr) : decode (encode i) = .ok i := by
  cases i with
  | csum b => cases b <;> decide
  | build a q => revert a q; decide
  | buildack q => revert q; decide
  | nop | verify | extseq | extack | clrerr => decide

/-- A row of the decoder answers its command only when the fields the row wants zero are zero. -/
theorem of_decodeRow_ok {c : Prop} [Decidable c] {r : IllegalReason} {i j : Instr}
    (h : (if decide c then Except.ok j else .error r) = .ok i) : c ∧ j = i := by
  split at h
  · cases h; exact ⟨of_decide_eq_true ‹_›, rfl⟩
  · cases h

/-- The row that accepts a word fixes the word's OP and its zero fields, and the operands are the rest of it. -/
theorem encode_of_decode {w : Word} {i : Instr} (h : decode w = .ok i) : encode i = w := by
  have hw := word_fields w
  unfold decode at h
  generalize opField w = op, rsvField w = rsv, aField w = a, sField w = q at h hw
  subst hw
  have op_eq (n : Nat) (hn : op.toNat = n) : op = BitVec.ofNat 4 n := by simp [← hn]
  dsimp only at h
  split at h
  case h_1 hn | h_5 hn | h_6 hn | h_7 hn | h_8 hn =>
    obtain ⟨⟨rfl, rfl, rfl⟩, rfl⟩ := of_decodeRow_ok h
    rw [op_eq _ hn]; rfl
  case h_2 hn | h_4 hn =>
    obtain ⟨⟨rfl, rfl⟩, rfl⟩ := of_decodeRow_ok h
    rw [op_eq _ hn]; clear h; revert q; decide
  case h_3 hn =>
    obtain ⟨rfl, rfl⟩ := of_decodeRow_ok h
    rw [op_eq _ hn]; clear h; revert a q; decide
  case h_9 => cases h

end Sys2Proof
end

section
/-! PROOF. What a command, a word written to CMD, and a host access leave in STATUS (spec/10_state.md R22 to R28), each said
once as a whole word; the statements about ERR, STICKY, MAGIC_OK and LEN_OK read their field of it. -/

namespace Sys2Proof.Machine

/-! ### The step and its commands, equation by equation -/

theorem step_of_inputs {s : State} {x : HostAccess} {rest : List HostAccess} (h : s.inputs = x :: rest) :
    step s = perform x (withInputs rest s) := by
  unfold step
  rw [h]

theorem execBuild_of_tooLong {s : State} (h : Config.maxPayload < lengthOf s.paylen) (a q : Bit) :
    execBuild a q s = .next (raiseError .tooLong s) := if_pos h

theorem execBuild_of_fits {s : State} (h : ¬ Config.maxPayload < lengthOf s.paylen) (a q : Bit) :
    execBuild a q s = .next (framePacket (Config.hdrLen + lengthOf s.paylen)
      (mkFlags (BitVec.ofNat 14 (Config.hdrLen + lengthOf s.paylen)) a q) s) := if_neg h

/-- R26: whether VERIFY finds the packet long enough and its magic tag right. -/
def magicMatches (s : State) : Bool :=
  decide (Config.hdrLen ≤ packetLen .rx s ∧ readBytes .rx 0 8 s = s.magic.toList)

/-- R27: whether VERIFY finds the packet long enough and its length field right. -/
def lenMatches (s : State) : Bool :=
  decide (Config.hdrLen ≤ packetLen .rx s ∧ (flagsLen (readWord .rx 10 s)).toNat = packetLen .rx s)

/-- R87, R91: whether VERIFY finds the stored checksum equal to the recomputed one. -/
def checksumMatches (s : State) : Bool := decide (packetChecksum (packetBytes .rx s) = readWord .rx 8 s)

theorem execVerify_of_trunc {s : State} (h : packetLen .rx s < Config.hdrLen) :
    execVerify s = .next (raiseError .trunc (setChecks (magicMatches s) (lenMatches s) (setRes 0x0000 s))) := by
  have hm : magicMatches s = false := decide_eq_false fun hc => Nat.not_le.2 h hc.1
  have hl : lenMatches s = false := decide_eq_false fun hc => Nat.not_le.2 h hc.1
  rw [hm, hl]
  exact if_pos h

theorem execVerify_of_header {s : State} (h : ¬ packetLen .rx s < Config.hdrLen) :
    execVerify s = .next (complete (setChecks (magicMatches s) (lenMatches s) (setFlags (readWord .rx 10 s)
      (setCsum (packetChecksum (packetBytes .rx s)) (setRes (bitWord (boolBit (checksumMatches s))) s))))) := by
  simp only [magicMatches, lenMatches, Nat.le_of_not_lt h, true_and]
  exact if_neg h

/-! ### Errors -/

/-- The error of the three commands that read a header from RX (R100). -/
def truncError (s : State) : Option ErrCode := if packetLen .rx s < Config.hdrLen then some .trunc else none

/-- The error a command raises, if any (R97, R99, R100). -/
def commandError (i : Instr) (s : State) : Option ErrCode :=
  match i with
  | .build _ _ => if Config.maxPayload < lengthOf s.paylen then some .tooLong else none
  | .verify => truncError s
  | .extseq => truncError s
  | .extack => truncError s
  | _ => none

/-- The error a word written to CMD raises, if any (R22, R98). -/
def wordError (w : Word) (s : State) : Option ErrCode :=
  match decode w with
  | .ok i => commandError i s
  | .error _ => some .illegalCmd

/-- STATUS.ERR after a command other than NOP: NONE, or the code of the error raised (R24). -/
def outcomeErr : Option ErrCode → ErrBits
  | none => errNone
  | some c => c.bits

/-- STATUS when a command ends: `raiseError` or `complete` (R13, R24, R25). -/
def endStatus : Option ErrCode → Word → Word
  | none, w => withErr errNone w
  | some c, w => withSticky true (withErr c.bits w)

theorem outcomeErr_ne_zero_iff (e : Option ErrCode) : outcomeErr e ≠ 0 ↔ e.isSome = true := by
  cases e with
  | none => simp [outcomeErr, errNone]
  | some c => cases c <;> decide

@[simp] theorem statusErr_endStatus (e : Option ErrCode) (w : Word) : statusErr (endStatus e w) = outcomeErr e := by
  cases e <;> simp [endStatus, outcomeErr]

@[simp] theorem statusSticky_endStatus (e : Option ErrCode) (w : Word) :
    statusSticky (endStatus e w) = (statusSticky w || e.isSome) := by
  cases e <;> simp [endStatus]

@[simp] theorem statusMagicOk_endStatus (e : Option ErrCode) (w : Word) :
    statusMagicOk (endStatus e w) = statusMagicOk w := by
  cases e <;> simp [endStatus]

@[simp] theorem statusLenOk_endStatus (e : Option ErrCode) (w : Word) : statusLenOk (endStatus e w) = statusLenOk w := by
  cases e <;> simp [endStatus]

/-! ### STATUS after a command -/

/-- STATUS after a command, as R24 to R27 state it. -/
def commandStatus (i : Instr) (s : State) : Word :=
  match i with
  | .nop => s.status
  | .clrerr => withSticky false (withErr errNone s.status)
  | .verify =>
    endStatus (commandError .verify s) (withLenOk (lenMatches s) (withMagicOk (magicMatches s) s.status))
  | i => endStatus (commandError i s) s.status

/-- EXTSEQ and EXTACK end as their common error says, whichever field they extract. -/
theorem extractBit_status (field : Word → Bit) (s : State) :
    (extractBit field s).status = endStatus (truncError s) s.status := by
  obtain ⟨h, e⟩ | ⟨h, e⟩ := extractBit_cases field s
  · simp [e, h, truncError, endStatus]
  · simp [e, Nat.not_lt.2 h, truncError, endStatus]

theorem exec_status {i : Instr} {s t : State} (h : exec i s = .next t) : t.status = commandStatus i s := by
  cases i with
  | nop => cases h; rfl
  | csum b => cases h; rfl
  | buildack q => cases h; exact framePacket_status ..
  | extseq => cases h; exact extractBit_status ..
  | extack => cases h; exact extractBit_status ..
  | clrerr => cases h; rfl
  | build a q =>
    by_cases hn : Config.maxPayload < lengthOf s.paylen
    · cases (execBuild_of_tooLong hn a q).symm.trans h
      simp [commandStatus, commandError, endStatus, hn]
    · cases (execBuild_of_fits hn a q).symm.trans h
      simp [commandStatus, commandError, endStatus, hn]
  | verify =>
    by_cases hn : packetLen .rx s < Config.hdrLen
    · cases (execVerify_of_trunc hn).symm.trans h
      simp [commandStatus, commandError, truncError, endStatus, hn]
    · cases (execVerify_of_header hn).symm.trans h
      simp [commandStatus, commandError, truncError, endStatus, hn]

@[simp] theorem statusErr_commandStatus {i : Instr} (hi : i ≠ .nop) (s : State) :
    statusErr (commandStatus i s) = outcomeErr (commandError i s) := by
  cases i <;> simp [commandStatus, commandError, outcomeErr] at hi ⊢

@[simp] theorem statusSticky_commandStatus {i : Instr} (hi : i ≠ .clrerr) (s : State) :
    statusSticky (commandStatus i s) = (statusSticky s.status || (commandError i s).isSome) := by
  cases i <;> simp [commandStatus, commandError] at hi ⊢

@[simp] theorem statusMagicOk_commandStatus {i : Instr} (hi : i ≠ .verify) (s : State) :
    statusMagicOk (commandStatus i s) = statusMagicOk s.status := by
  cases i <;> simp [commandStatus] at hi ⊢

@[simp] theorem statusLenOk_commandStatus {i : Instr} (hi : i ≠ .verify) (s : State) :
    statusLenOk (commandStatus i s) = statusLenOk s.status := by
  cases i <;> simp [commandStatus] at hi ⊢

/-! ### STATUS after a word written to CMD, and after any access -/

/-- STATUS after a word written to CMD (R22, R98). -/
def wordStatus (w : Word) (s : State) : Word :=
  match decode w with
  | .ok i => commandStatus i s
  | .error _ => endStatus (some .illegalCmd) s.status

theorem wordStatus_of_decode {w : Word} {i : Instr} (h : decode w = .ok i) (s : State) :
    wordStatus w s = commandStatus i s := by
  simp [wordStatus, h]

theorem wordStatus_of_illegal {w : Word} {r : IllegalReason} (h : decode w = .error r) (s : State) :
    wordStatus w s = endStatus (some .illegalCmd) s.status := by
  simp [wordStatus, h]

theorem perform_commandWord_status {w : Word} {s t : State} (h : perform (.writeReg 0 w) s = .next t) :
    t.status = wordStatus w s := by
  change runCommandWord w s = .next t at h
  unfold runCommandWord at h
  cases hd : decode w with
  | ok i =>
    rw [hd] at h
    rw [wordStatus_of_decode hd, exec_status h]
  | error r =>
    rw [hd] at h
    cases h
    rw [wordStatus_of_illegal hd]; rfl

theorem statusErr_wordStatus {w : Word} (hw : w ≠ encode .nop) (s : State) :
    statusErr (wordStatus w s) = outcomeErr (wordError w s) := by
  unfold wordStatus wordError
  cases hd : decode w with
  | ok i => exact statusErr_commandStatus (by rintro rfl; exact hw (encode_of_decode hd).symm) s
  | error r => exact statusErr_endStatus ..

theorem statusSticky_wordStatus {w : Word} (hw : w ≠ encode .clrerr) (s : State) :
    statusSticky (wordStatus w s) = (statusSticky s.status || (wordError w s).isSome) := by
  unfold wordStatus wordError
  cases hd : decode w with
  | ok i => exact statusSticky_commandStatus (by rintro rfl; exact hw (encode_of_decode hd).symm) s
  | error r => exact statusSticky_endStatus ..

theorem statusErr_wordStatus_clrerr (s : State) : statusErr (wordStatus (encode .clrerr) s) = 0 := by
  simp [wordStatus_of_decode (decode_encode _), commandStatus, errNone]

theorem statusSticky_wordStatus_clrerr (s : State) : statusSticky (wordStatus (encode .clrerr) s) = false := by
  simp [wordStatus_of_decode (decode_encode _), commandStatus]

theorem wordError_encode (i : Instr) (s : State) : wordError (encode i) s = commandError i s := by
  simp [wordError, decode_encode]

theorem Reg.ofIndex_eq_cmd {i : RegIndex} (h : Reg.ofIndex i = .cmd) : i = 0 := by
  revert i; decide

@[simp] theorem storeReg_status (r : Reg) (w : Word) (s : State) : (storeReg r w s).status = s.status := by
  cases r <;> rfl

theorem hostWriteReg_of_ne_zero {i : RegIndex} (hi : i ≠ 0) (w : Word) (s : State) :
    hostWriteReg i w s = .next (storeReg (Reg.ofIndex i) w s) := by
  unfold hostWriteReg
  split
  · exact absurd (Reg.ofIndex_eq_cmd ‹_›) hi
  · rfl

/-- An access is a reset, a word written to CMD, or one that keeps STATUS. -/
theorem perform_status_cases {x : HostAccess} {s t : State} (h : perform x s = .next t) :
    (x = .reset ∧ t.status = 0) ∨ (∃ w, x = .writeReg 0 w ∧ t.status = wordStatus w s) ∨
    ((x ≠ .reset ∧ ∀ w, x ≠ .writeReg 0 w) ∧ t.status = s.status) := by
  cases x with
  | reset => cases h; exact .inl ⟨rfl, rfl⟩
  | writeReg i w =>
    by_cases hi : i = 0
    · subst hi; exact .inr (.inl ⟨w, rfl, perform_commandWord_status h⟩)
    · cases (hostWriteReg_of_ne_zero hi w s).symm.trans h
      exact .inr (.inr ⟨⟨nofun, fun _ e => hi (HostAccess.writeReg.inj e).1⟩, storeReg_status ..⟩)
  | readReg i => cases h; exact .inr (.inr ⟨⟨nofun, nofun⟩, rfl⟩)
  | writeBuf b a v => cases h; exact .inr (.inr ⟨⟨nofun, nofun⟩, writeByte_status ..⟩)
  | readBuf b a => cases h; exact .inr (.inr ⟨⟨nofun, nofun⟩, rfl⟩)

end Sys2Proof.Machine
end

section
/-! PROOF. The statements about the registers after reset and about STATUS (spec/10_state.md R24 to R27, R40). -/

namespace Sys2Proof.Machine

/-! ### Reset -/

@[simp] theorem storedReg_resetBlock (r : Reg) (s : State) : storedReg r (resetBlock s) = 0 := by
  cases r <;> rfl

@[simp] theorem storedReg_reset (r : Reg) : storedReg r State.reset = 0 := by
  cases r <;> rfl

/-- Settles O13: what a register stores after reset is 0, and a read masks it. -/
theorem resetClearsEveryRegister : Obligations.ResetClearsEveryRegister := by
  refine ⟨fun i => ?_, fun s => ⟨resetBlock s, rfl, fun i => ?_, rfl, rfl, rfl, rfl, rfl, rfl, rfl⟩⟩
  · simp [readReg]
  · simp [readReg]

/-! ### ERR and STICKY -/

theorem outcomeErr_build (a q : Bit) (s : State) :
    outcomeErr (commandError (.build a q) s) = if 16371 < s.paylen.toNat % 16384 then 2 else 0 := by
  rw [commandError, apply_ite outcomeErr, lengthOf_eq_mod]; rfl

theorem outcomeErr_truncError (s : State) :
    outcomeErr (truncError s) = if s.rxlen.toNat % 16384 < 12 then 3 else 0 := by
  rw [truncError, apply_ite outcomeErr, packetLen_eq_mod]; rfl

/-- Settles O34, from what a word written to CMD leaves in STATUS, by the command it decodes to. -/
theorem errHoldsTheLastOutcome : Obligations.ErrHoldsTheLastOutcome := by
  intro w s t h
  rw [perform_commandWord_status h]
  cases hd : decode w with
  | error r => rw [wordStatus_of_illegal hd]; exact statusErr_endStatus ..
  | ok i =>
    rw [wordStatus_of_decode hd]
    by_cases hi : i = .nop
    · subst hi; rfl
    rw [statusErr_commandStatus hi]
    cases i with
    | nop => exact absurd rfl hi
    | build a q => exact outcomeErr_build a q s
    | verify | extseq | extack => exact outcomeErr_truncError s
    | csum | buildack | clrerr => rfl

/-- Settles O35, by what the access served does to STATUS: a reset clears it, a word written to CMD raises STICKY exactly with
an error or is CLRERR, and every other access keeps it. -/
theorem stickyRisesWithErrorsAndFallsByClrerrOrReset : Obligations.StickyRisesWithErrorsAndFallsByClrerrOrReset := by
  intro s t x rest hx h
  rw [step_of_inputs hx] at h
  obtain ⟨rfl, ht⟩ | ⟨w, rfl, ht⟩ | ⟨⟨hreset, hcmd⟩, ht⟩ := perform_status_cases h
  · have hsticky : statusSticky t.status = false := by rw [ht]; rfl
    simp [hsticky]
  · by_cases hclr : w = encode .clrerr
    · have hsticky : statusSticky t.status = false := by rw [ht, hclr, statusSticky_wordStatus_clrerr]
      have herr : statusErr t.status = 0 := by rw [ht, hclr, statusErr_wordStatus_clrerr]
      simp [hsticky, herr, hclr]
    · have hsticky := statusSticky_wordStatus hclr (withInputs rest s)
      rw [← ht, withInputs_status] at hsticky
      have herr (hnop : w ≠ encode .nop) : statusErr t.status ≠ 0 ↔ (wordError w (withInputs rest s)).isSome = true := by
        rw [ht, statusErr_wordStatus hnop, outcomeErr_ne_zero_iff]
      refine ⟨fun h₁ h₂ => ?_, fun h₁ h₂ => ?_, fun v hv hnop he => ?_, fun hv => ?_⟩
      · simp [hsticky, h₁] at h₂
      · rw [hsticky, h₁, Bool.false_or] at h₂
        have hnop : w ≠ encode .nop := by
          rintro rfl
          rw [wordError_encode] at h₂
          exact absurd h₂ nofun
        exact ⟨(herr hnop).2 h₂, w, rfl, hnop⟩
      · cases hv
        rw [hsticky, (herr hnop).1 he, Bool.or_true]
      · exact absurd hv (by simpa using hclr)
  · rw [withInputs_status] at ht
    rw [ht]
    refine ⟨fun h₁ h₂ => ?_, fun h₁ h₂ => ?_, fun w hw => absurd hw (hcmd w), fun hv => ?_⟩
    · exact absurd (h₁.symm.trans h₂) nofun
    · exact absurd (h₁.symm.trans h₂) nofun
    · exact hv.elim (absurd · hreset) (absurd · (hcmd _))

/-! ### MAGIC_OK and LEN_OK -/

theorem flagsLen_toNat (f : Word) : (flagsLen f).toNat = f.toNat / 4 := by
  have := f.isLt
  simp only [flagsLen, BitVec.extractLsb'_toNat, Nat.shiftRight_eq_div_pow]
  omega

theorem readBytes_eq_magic_iff (s : State) :
    readBytes .rx 0 8 s = s.magic.toList ↔ ∀ (k : Nat) (h : k < 8), readByte .rx k s = s.magic[k] := by
  simp [List.ext_getElem_iff, readBytes_getElem]

theorem magicMatches_iff (s : State) : magicMatches s = true ↔
    12 ≤ s.rxlen.toNat % 16384 ∧ ∀ (k : Nat) (h : k < 8), readByte .rx k s = s.magic[k] := by
  rw [magicMatches, decide_eq_true_iff, packetLen_eq_mod, readBytes_eq_magic_iff]
  rfl

theorem lenMatches_iff (s : State) : lenMatches s = true ↔
    12 ≤ s.rxlen.toNat % 16384 ∧
    (readByte .rx 10 s ++ readByte .rx 11 s : Word).toNat / 4 = s.rxlen.toNat % 16384 := by
  rw [lenMatches, decide_eq_true_iff, packetLen_eq_mod, flagsLen_toNat]
  rfl

theorem statusMagicOk_commandStatus_verify (s : State) : statusMagicOk (commandStatus .verify s) = magicMatches s := by
  simp [commandStatus]

theorem statusLenOk_commandStatus_verify (s : State) : statusLenOk (commandStatus .verify s) = lenMatches s := by
  simp [commandStatus]

theorem bitWord_boolBit_eq_one_iff (c : Bool) : bitWord (boolBit c) = 1#16 ↔ c = true := by
  cases c <;> decide

/-- R87, R91: RES after VERIFY is 1 exactly when a whole header is there and the checksums agree. -/
theorem execVerify_res_eq_one_iff {s t : State} (h : execVerify s = .next t) :
    t.res = 1 ↔ Config.hdrLen ≤ packetLen .rx s ∧ packetChecksum (packetBytes .rx s) = readWord .rx 8 s := by
  by_cases hn : packetLen .rx s < Config.hdrLen
  · cases (execVerify_of_trunc hn).symm.trans h
    simp [Nat.not_le.2 hn]
  · cases (execVerify_of_header hn).symm.trans h
    simp [Nat.le_of_not_lt hn, bitWord_boolBit_eq_one_iff, checksumMatches]

/-- Settles O36: VERIFY writes what it finds, every other command keeps both bits, and RES is the comparison of the
checksums. -/
theorem verifyAloneWritesMagicOkAndLenOk : Obligations.VerifyAloneWritesMagicOkAndLenOk := by
  refine ⟨fun s t h => ?_, fun i s t hi h => ?_, fun s t h => execVerify_res_eq_one_iff h⟩
  · rw [exec_status h, statusMagicOk_commandStatus_verify, statusLenOk_commandStatus_verify]
    exact ⟨magicMatches_iff s, lenMatches_iff s⟩
  · rw [exec_status h]
    exact ⟨statusMagicOk_commandStatus hi s, statusLenOk_commandStatus hi s⟩

end Sys2Proof.Machine
end

section
/-! PROOF. The opcode map is the list of the thirteen commands, each with its word (spec/30_encoding.md R62). -/

namespace Sys2Proof

theorem decode_eq_ok_iff (w : Word) (i : Instr) : decode w = .ok i ↔ encode i = w :=
  ⟨encode_of_decode, fun h => h ▸ decode_encode i⟩

/-- Every command, in the order of R62's rows. -/
def commands : List Instr :=
  [.nop, .csum .tx, .csum .rx, .build 0 0, .build 0 1, .build 1 0, .build 1 1, .buildack 0, .buildack 1, .verify, .extseq,
   .extack, .clrerr]

theorem mem_commands (i : Instr) : i ∈ commands := by
  cases i with
  | csum b => cases b <;> decide
  | build a q => revert a q; decide
  | buildack q => revert q; decide
  | nop | verify | extseq | extack | clrerr => decide

/-- Settles O1: R62's thirteen pairs are the commands with their words, and a word decodes to the command it is the word of. -/
theorem opcodeMapIsExactlyTheThirteenWords : Obligations.OpcodeMapIsExactlyTheThirteenWords := fun w i =>
  calc decode w = .ok i
    _ ↔ encode i = w := decode_eq_ok_iff w i
    _ ↔ (w, i) ∈ commands.map (fun j => (encode j, j)) := by simp [mem_commands]

end Sys2Proof
end

section
/-! PROOF. The flags word and its three fields (spec/30_encoding.md R67, R69). -/

namespace Sys2Proof.Machine

/-! seq_bit is bit 0 of the flags word, ack_bit bit 1, and total_length the bits from 2 on (R67). -/

@[simp] theorem mkFlags_getElem_zero (len : BitVec 14) (a q : Bit) : (mkFlags len a q)[0] = q[0] := by
  simp only [mkFlags, ← BitVec.getLsbD_eq_getElem, BitVec.getLsbD_append]
  simp

@[simp] theorem mkFlags_getElem_one (len : BitVec 14) (a q : Bit) : (mkFlags len a q)[1] = a[0] := by
  simp only [mkFlags, ← BitVec.getLsbD_eq_getElem, BitVec.getLsbD_append]
  simp

@[simp] theorem mkFlags_getElem_add_two (len : BitVec 14) (a q : Bit) (k : Nat) (hk : k + 2 < 16) :
    (mkFlags len a q)[k + 2] = len[k] := by
  simp only [mkFlags, ← BitVec.getLsbD_eq_getElem, BitVec.getLsbD_append]
  simp

/-- R69: MkFlags as the rule writes it. -/
theorem mkFlags_eq_shifted_or (len : BitVec 14) (a q : Bit) :
    mkFlags len a q = (len.setWidth 16 <<< 2) ||| (a.setWidth 16 <<< 1) ||| q.setWidth 16 := by
  ext k hk
  match k with
  | 0 => simp
  | 1 => simp
  | k + 2 => simp [BitVec.getLsbD_eq_getElem (show k < 14 by omega)]

@[simp] theorem flagsLen_mkFlags (len : BitVec 14) (a q : Bit) : flagsLen (mkFlags len a q) = len := by
  ext k hk
  simp [flagsLen, Nat.add_comm 2 k, show k + 2 < 16 by omega]

@[simp] theorem flagsAck_mkFlags (len : BitVec 14) (a q : Bit) : flagsAck (mkFlags len a q) = a := by
  ext k hk
  obtain rfl : k = 0 := by omega
  simp [flagsAck]

@[simp] theorem flagsSeq_mkFlags (len : BitVec 14) (a q : Bit) : flagsSeq (mkFlags len a q) = q := by
  ext k hk
  obtain rfl : k = 0 := by omega
  simp [flagsSeq]

theorem mkFlags_fields (f : Word) : mkFlags (flagsLen f) (flagsAck f) (flagsSeq f) = f := by
  ext k hk
  match k with
  | 0 => simp [flagsSeq]
  | 1 => simp [flagsAck]
  | k + 2 => simp [flagsLen, Nat.add_comm 2 k, hk]

/-- Settles O4: a length up to 16383 fits the 14-bit field, and the flags word is read and written field by field. -/
theorem flagsWordPacksItsFields : Obligations.FlagsWordPacksItsFields := by
  refine ⟨fun n a q hn => ?_, mkFlags_fields⟩
  have hlen : n < 2 ^ 14 := by omega
  refine ⟨?_, ?_, flagsAck_mkFlags .., flagsSeq_mkFlags ..⟩
  · rw [mkFlags_eq_shifted_or, BitVec.setWidth_ofNat_of_le_of_lt (by decide) hlen]
  · rw [flagsLen_mkFlags, BitVec.toNat_ofNat, Nat.mod_eq_of_lt hlen]

end Sys2Proof.Machine
end

section
/-! PROOF. The checksum's arithmetic: OCSum as a function of the exact integer sum of the words, and the laws that follow from
it (spec/40_checksum.md R73 to R80). -/

namespace Sys2Proof.Machine

/-! ### The closed form -/

/-- R79: the 16-bit value an exact integer sum folds to under end-around carry. -/
def foldedSum (n : Nat) : Nat := if n = 0 then 0 else 1 + (n - 1) % 65535

theorem foldedSum_eq_zero_iff (n : Nat) : foldedSum n = 0 ↔ n = 0 := by
  unfold foldedSum; split <;> omega

theorem foldedSum_mod (n : Nat) : foldedSum n % 65535 = n % 65535 := by
  unfold foldedSum; split <;> omega

theorem foldedSum_le (n : Nat) : foldedSum n ≤ 65535 := by
  unfold foldedSum; split <;> omega

/-- Folding changes nothing that is 16 bits already. -/
theorem foldedSum_of_lt {n : Nat} (h : n < 65536) : foldedSum n = n := by
  unfold foldedSum; split <;> omega

/-- The residue modulo 65535 and being zero are all that is left of a sum: 0x0000 and 0xFFFF are the one residue with two
values. -/
theorem foldedSum_congr {m n : Nat} (hmod : m % 65535 = n % 65535) (hzero : m = 0 ↔ n = 0) :
    foldedSum m = foldedSum n := by
  unfold foldedSum
  rw [if_congr hzero rfl rfl]
  split <;> omega

/-- A part of a sum may be folded before the rest is added. -/
theorem foldedSum_foldedSum_add (m n : Nat) : foldedSum (foldedSum m + n) = foldedSum (m + n) :=
  foldedSum_congr (Nat.ModEq.add_right n (foldedSum_mod m))
    (by rw [Nat.add_eq_zero_iff, Nat.add_eq_zero_iff, foldedSum_eq_zero_iff])

/-- R80 (c): a sum and the complement of what it folds to fold to 0xFFFF. -/
theorem foldedSum_add_complement (n : Nat) : foldedSum (n + (65535 - foldedSum n)) = 65535 := by
  have hle := foldedSum_le n
  have hmod := foldedSum_mod n
  have hzero := foldedSum_eq_zero_iff n
  calc foldedSum (n + (65535 - foldedSum n))
    _ = foldedSum 65535 := foldedSum_congr (by omega) (by omega)
    _ = 65535 := foldedSum_of_lt (by decide)

/-- R74 on the exact sum. -/
theorem ocAdd_toNat (s w : Word) :
    (ocAdd s w).toNat = (s.toNat + w.toNat) % 65536 + (s.toNat + w.toNat) / 65536 := by
  have hs := s.isLt
  have hw := w.isLt
  have exact_sum : (s.setWidth 17 + w.setWidth 17).toNat = s.toNat + w.toNat := by
    simp only [BitVec.toNat_add, BitVec.toNat_setWidth]
    omega
  have carry_lt : (s.toNat + w.toNat) / 2 ^ 16 < 2 := by omega
  have folded_lt : (s.toNat + w.toNat) % 2 ^ 16 + (s.toNat + w.toNat) / 2 ^ 16 < 2 ^ 16 := by omega
  simp only [ocAdd, BitVec.toNat_add, BitVec.toNat_setWidth, BitVec.extractLsb'_toNat, Nat.shiftRight_eq_div_pow,
    exact_sum, Nat.pow_zero, Nat.div_one]
  rw [Nat.mod_eq_of_lt carry_lt, Nat.mod_eq_of_lt (carry_lt.trans (by decide)), Nat.mod_eq_of_lt folded_lt]
  rfl

theorem ocAdd_toNat_eq_foldedSum (s w : Word) : (ocAdd s w).toNat = foldedSum (s.toNat + w.toNat) := by
  have hs := s.isLt
  have hw := w.isLt
  rw [ocAdd_toNat]
  unfold foldedSum
  split <;> omega

@[simp] theorem ocAdd_zero (s : Word) : ocAdd s 0#16 = s :=
  BitVec.eq_of_toNat_eq ((ocAdd_toNat_eq_foldedSum s 0).trans (foldedSum_of_lt s.isLt))

/-- The exact integer sum of a list of words. -/
def wordSum (ws : List Word) : Nat := (ws.map BitVec.toNat).sum

theorem foldl_ocAdd_toNat (ws : List Word) (s : Word) : (ws.foldl ocAdd s).toNat = foldedSum (s.toNat + wordSum ws) := by
  induction ws generalizing s with
  | nil => exact (foldedSum_of_lt s.isLt).symm
  | cons w ws ih =>
    calc (ws.foldl ocAdd (ocAdd s w)).toNat
      _ = foldedSum (foldedSum (s.toNat + w.toNat) + wordSum ws) := by rw [ih, ocAdd_toNat_eq_foldedSum]
      _ = foldedSum (s.toNat + (w.toNat + wordSum ws)) := by rw [foldedSum_foldedSum_add, Nat.add_assoc]

theorem ocSumWords_toNat (ws : List Word) : (ocSumWords ws).toNat = foldedSum (wordSum ws) := by
  simpa [ocSumWords] using foldl_ocAdd_toNat ws 0

theorem ocSum_toNat (bs : List Byte) : (ocSum bs).toNat = foldedSum (wordSum (wordsOf bs)) :=
  ocSumWords_toNat _

@[simp] theorem wordSum_append (xs ys : List Word) : wordSum (xs ++ ys) = wordSum xs + wordSum ys := by
  simp [wordSum]

@[simp] theorem wordSum_cons (w : Word) (ws : List Word) : wordSum (w :: ws) = w.toNat + wordSum ws := rfl

/-- R80 (b): a zero word drops out of the sum. -/
theorem ocSumWords_append_zero_cons (xs ys : List Word) : ocSumWords (xs ++ 0 :: ys) = ocSumWords (xs ++ ys) := by
  simp [ocSumWords]

/-! ### A sum is zero exactly when every byte is -/

theorem beWord_eq_zero_iff (hi lo : Byte) : beWord hi lo = 0#16 ↔ hi = 0#8 ∧ lo = 0#8 := by
  refine ⟨fun h => ⟨?_, ?_⟩, fun ⟨hhi, hlo⟩ => by rw [hhi, hlo]; rfl⟩
  · rw [← hiByte_beWord hi lo, h]; rfl
  · rw [← loByte_beWord hi lo, h]; rfl

theorem forall_mem_wordsOf_eq_zero_iff (bs : List Byte) : (∀ w ∈ wordsOf bs, w = 0#16) ↔ ∀ b ∈ bs, b = 0#8 := by
  induction bs using wordsOf.induct with
  | case1 => simp [wordsOf_nil]
  | case2 b => simp [wordsOf_single, beWord_eq_zero_iff]
  | case3 b₀ b₁ rest ih => simp [wordsOf_pair, beWord_eq_zero_iff, ih, and_assoc]

theorem wordSum_eq_zero_iff (ws : List Word) : wordSum ws = 0 ↔ ∀ w ∈ ws, w = 0#16 := by
  simp [wordSum, List.sum_eq_zero_iff, BitVec.toNat_eq]

theorem ocSum_eq_zero_iff (bs : List Byte) : ocSum bs = 0#16 ↔ ∀ b ∈ bs, b = 0#8 := by
  rw [← forall_mem_wordsOf_eq_zero_iff, ← wordSum_eq_zero_iff, ← foldedSum_eq_zero_iff, ← ocSum_toNat, BitVec.toNat_eq]
  rfl

/-! ### A packet around its checksum field (R77, R78) -/

/-- A string that reaches the checksum field is the eight bytes before it, its two bytes, and the rest. -/
theorem exists_append_checksumField {bs : List Byte} (h : 10 ≤ bs.length) :
    ∃ pre rest, pre.length = 2 * 4 ∧ bs = pre ++ bs[8] :: bs[9] :: rest :=
  ⟨bs.take 8, bs.drop 10, by simp; omega, by simp⟩

theorem zeroField_append {pre : List Byte} (h : pre.length = 2 * 4) (b₈ b₉ : Byte) (rest : List Byte) :
    zeroField (pre ++ b₈ :: b₉ :: rest) = pre ++ 0 :: 0 :: rest := by
  simp [zeroField, h]

/-- The checksum field adds its own word to the sum of the rest. -/
theorem wordSum_append_checksumField {pre : List Byte} (h : pre.length = 2 * 4) (b₈ b₉ : Byte) (rest : List Byte) :
    wordSum (wordsOf (pre ++ b₈ :: b₉ :: rest)) = wordSum (wordsOf (pre ++ rest)) + (beWord b₈ b₉).toNat := by
  rw [wordsOf_append _ _ 4 h, wordsOf_append _ _ 4 h, wordsOf_pair]
  simp only [wordSum_append, wordSum_cons]
  omega

theorem length_wordsOf {bs : List Byte} {n : Nat} (h : bs.length = 2 * n) : (wordsOf bs).length = n := by
  induction n generalizing bs with
  | zero => rw [List.length_eq_zero_iff.1 h]; rfl
  | succ n ih =>
    match bs, h with
    | b₀ :: b₁ :: rest, h => rw [wordsOf_pair, List.length_cons, ih (by simp at h; omega)]

/-- R78: the zeroed word contributes nothing, so the rest is summed alone. -/
theorem ocSum_zeroField {bs : List Byte} (h : 10 ≤ bs.length) :
    ocSum (zeroField bs) = ocSumWords ((wordsOf bs).eraseIdx 4) := by
  obtain ⟨pre, rest, hpre, hbs⟩ := exists_append_checksumField h
  generalize bs[8] = b₈, bs[9] = b₉ at hbs
  subst hbs
  calc ocSum (zeroField (pre ++ b₈ :: b₉ :: rest))
    _ = ocSumWords (wordsOf pre ++ 0 :: wordsOf rest) := by
      rw [zeroField_append hpre, ocSum, wordsOf_append _ _ 4 hpre]; rfl
    _ = ocSumWords (wordsOf pre ++ wordsOf rest) := ocSumWords_append_zero_cons ..
    _ = ocSumWords ((wordsOf (pre ++ b₈ :: b₉ :: rest)).eraseIdx 4) := by
      rw [wordsOf_append _ _ 4 hpre, wordsOf_pair,
        List.eraseIdx_append_of_length_le (length_wordsOf hpre).le, length_wordsOf hpre]; rfl

theorem checksum_toNat (bs : List Byte) : (checksum bs).toNat = 65535 - (ocSum bs).toNat := by
  rw [checksum, BitVec.toNat_not]

/-- R80 (c): a packet that holds its own packet checksum sums to 0xFFFF. -/
theorem ocSum_of_holds_packetChecksum {bs : List Byte} (h : 10 ≤ bs.length)
    (hc : beWord bs[8] bs[9] = packetChecksum bs) : ocSum bs = 0xFFFF := by
  obtain ⟨pre, rest, hpre, hbs⟩ := exists_append_checksumField h
  generalize bs[8] = b₈, bs[9] = b₉ at hbs hc
  subst hbs
  have stored : (beWord b₈ b₉).toNat = 65535 - foldedSum (wordSum (wordsOf (pre ++ rest))) := by
    rw [hc, packetChecksum, checksum_toNat, ocSum_toNat, zeroField_append hpre, wordSum_append_checksumField hpre,
      (beWord_eq_zero_iff 0 0).2 ⟨rfl, rfl⟩, BitVec.toNat_zero, Nat.add_zero]
  refine BitVec.eq_of_toNat_eq ?_
  rw [ocSum_toNat, wordSum_append_checksumField hpre, stored, foldedSum_add_complement]; rfl

theorem checksum_of_ocSum_ones {bs : List Byte} (h : ocSum bs = 0xFFFF) : checksum bs = 0x0000 := by
  rw [checksum, h]; rfl

/-- R76: a string of zero bytes, the empty one included, has the checksum 0xFFFF. -/
theorem checksum_replicate_zero (n : Nat) : checksum (List.replicate n 0x00) = 0xFFFF := by
  have hsum : ocSum (List.replicate n 0x00) = 0 := (ocSum_eq_zero_iff _).2 fun b hb => List.eq_of_mem_replicate hb
  rw [checksum, hsum]; rfl

/-! ### The statements -/

/-- Settles O16: the exact sum is at most 0x1FFFE, so its one carry fits back in. -/
theorem endAroundCarryAddition : Obligations.EndAroundCarryAddition :=
  fun s w => ⟨ocAdd_toNat s w, ocAdd_zero s⟩

/-- Settles O17: the closed form is what the word-by-word fold comes to, and it is zero and congruent as the exact sum is. -/
theorem checksumSumClosedForm : Obligations.ChecksumSumClosedForm := by
  refine fun bs => ⟨ocSum_toNat bs, fun ⟨b, hb, hne⟩ hz => ?_, ?_⟩
  · exact hne ((ocSum_eq_zero_iff bs).1 hz b hb)
  · rw [ocSum_toNat, foldedSum_mod]; rfl

/-- Settles O18: the corner values are the complements of the two extreme sums, 0x0000 and 0xFFFF. -/
theorem checksumIsTheComplementOfTheSum : Obligations.ChecksumIsTheComplementOfTheSum :=
  ⟨checksum_toNat, checksum_replicate_zero 0, checksum_replicate_zero, fun _ => checksum_of_ocSum_ones⟩

/-- Settles O19: the packet checksum complements the sum of the view Z, in which the zeroed word drops out. -/
theorem packetChecksumSumsTheRest : Obligations.PacketChecksumSumsTheRest :=
  fun _ h => congrArg (~~~ ·) (ocSum_zeroField h)

end Sys2Proof.Machine
end

section
/-! PROOF. CSUM and its result on packets that hold their own checksum (spec/40_checksum.md R81, R82). -/

namespace Sys2Proof.Machine

/-! ### CSUM -/

theorem packetBytes_eq_map_range (b : Buf) (s : State) :
    packetBytes b s = (List.range (packetLen b s)).map fun k => readByte b k s := by
  rw [List.range_eq_range']; rfl

/-- What STATUS shows after a command that completed and wrote ERR only (R24, R25). -/
theorem statusShows_completed {s t : State} (h : t.status = withErr errNone s.status) :
    StatusShows s t 0 (statusSticky s.status) (statusMagicOk s.status) (statusLenOk s.status) := by
  constructor <;> simp [h, errNone]

theorem execCsum_eq (b : Buf) (s : State) :
    exec (.csum b) s = .next (complete (setCsum (checksum (packetBytes b s)) s)) := rfl

/-- R81, for either buffer. -/
theorem execCsum_spec (b : Buf) (s : State) : ∃ t, exec (.csum b) s = .next t ∧
    t.csum = checksum ((List.range (packetLen b s)).map fun k => readByte b k s) ∧
    (packetLen b s = 0 → t.csum = 0xFFFF) ∧
    StatusShows s t 0 (statusSticky s.status) (statusMagicOk s.status) (statusLenOk s.status) ∧
    { t with csum := s.csum, status := s.status } = s := by
  refine ⟨_, execCsum_eq b s, ?_, fun h => ?_, statusShows_completed rfl, rfl⟩
  · simp [packetBytes_eq_map_range]
  · rw [complete_csum, setCsum_csum, packetBytes_eq_map_range, h]
    exact checksum_replicate_zero 0

/-- Settles O25, by R81 for each buffer, its length written as the low 14 bits of its length register. -/
theorem csumCompletesWithTheBufferChecksum : Obligations.CsumCompletesWithTheBufferChecksum := by
  intro s
  have htx := execCsum_spec .tx s
  have hrx := execCsum_spec .rx s
  rw [packetLen_eq_mod] at htx hrx
  exact ⟨htx, hrx⟩

/-! ### Packets that hold their own checksum -/

/-- The packet in a buffer is whole, and its checksum field holds its packet checksum. -/
def holdsChecksum (b : Buf) (s : State) : Prop :=
  Config.hdrLen ≤ packetLen b s ∧ packetChecksum (packetBytes b s) = readWord b 8 s

/-- R80 (c), for a packet in a buffer. -/
theorem checksum_of_holdsChecksum {b : Buf} {s : State} (h : holdsChecksum b s) : checksum (packetBytes b s) = 0x0000 := by
  obtain ⟨hlen, hc⟩ := h
  have hlen : 10 ≤ (packetBytes b s).length := by
    rw [packetBytes_length]; exact Nat.le_trans (by decide) hlen
  refine checksum_of_ocSum_ones (ocSum_of_holds_packetChecksum hlen ?_)
  simp only [packetBytes, readBytes_getElem]
  exact hc.symm

/-- CSUM on a packet that is, byte for byte, one that holds its own checksum. -/
theorem execCsum_of_holdsChecksum {b : Buf} {t u : State} (h : holdsChecksum b t) (hu : packetBytes b u = packetBytes b t) :
    ∃ v, exec (.csum b) u = .next v ∧ v.csum = 0x0000 :=
  ⟨_, execCsum_eq b u, by rw [complete_csum, setCsum_csum, hu, checksum_of_holdsChecksum h]⟩

theorem holdsChecksum_framePacket {len : Nat} (hmin : Config.hdrLen ≤ len) (hmax : len ≤ Config.maxPktLen) (f : Word)
    (s : State) : holdsChecksum .tx (framePacket len f s) := by
  have hlen : packetLen .tx (framePacket len f s) = len := by
    rw [packetLen, framePacket_txlen, lengthOf_lengthWord hmax]
  refine ⟨hlen.ge.trans' hmin, ?_⟩
  rw [packetBytes, hlen, ← framePacket_csum, readWord, readByte_framePacket_8, readByte_framePacket_9, beWord_hi_lo]

/-- R92: VERIFY keeps the packet in RX. -/
theorem packetBytes_rx_of_execVerify {s t : State} (h : execVerify s = .next t) : packetBytes .rx t = packetBytes .rx s := by
  have keeps : t.rxlen = s.rxlen ∧ ∀ k, readByte .rx k t = readByte .rx k s := by
    by_cases hn : packetLen .rx s < Config.hdrLen
    · cases (execVerify_of_trunc hn).symm.trans h; simp
    · cases (execVerify_of_header hn).symm.trans h; simp
  obtain ⟨hlen, hread⟩ := keeps
  rw [packetBytes, packetLen, hlen]
  exact readBytes_congr fun k _ _ => hread k

/-- R91: twelve bytes 0xFF in RX, which sum to 0xFFFF with their checksum field 0xFFFF, where VERIFY wants 0x0000. -/
def allOnesInRx : State := { State.reset with rx := (List.range 12).map (·, 0xFF), rxlen := 12 }

/-- Settles O52: both builds and a VERIFY that wrote RES = 1 leave a packet that holds its checksum; for the converse, the
packet of twelve bytes 0xFF. -/
theorem rawChecksumOfAValidPacketIsZero : Obligations.RawChecksumOfAValidPacketIsZero := by
  refine ⟨fun a q s t u hn h hu => ?_, fun q s t u h hu => ?_, fun s t u h hres hu => ?_, ?_⟩
  · rw [← lengthOf_eq_mod] at hn
    cases (execBuild_of_fits (Nat.not_lt.2 hn) a q).symm.trans h
    have hmax : Config.hdrLen + lengthOf s.paylen ≤ Config.maxPktLen := Nat.add_le_add_left hn 12
    exact execCsum_of_holdsChecksum (holdsChecksum_framePacket (Nat.le_add_right ..) hmax ..) hu
  · cases h
    exact execCsum_of_holdsChecksum (holdsChecksum_framePacket le_rfl (by decide) ..) hu
  · have valid : holdsChecksum .rx s := (execVerify_res_eq_one_iff h).1 hres
    exact execCsum_of_holdsChecksum valid (hu.trans (packetBytes_rx_of_execVerify h))
  · exact ⟨allOnesInRx, _, _, rfl, by decide, rfl, by decide⟩

end Sys2Proof.Machine
end

section
/-! PROOF. The packet framer: BUILD and BUILDACK with their frames (spec/41_build.md R83, R84). -/

namespace Sys2Proof.Machine

/-! ### What framing leaves, for any length and flags word -/

theorem lengthWord_toNat {n : Nat} (h : n ≤ Config.maxPktLen) : (lengthWord n).toNat = n := by
  have : n < 2 ^ 14 := Nat.lt_succ_of_le h
  rw [lengthWord, BitVec.toNat_setWidth_of_le (by decide), BitVec.toNat_ofNat, Nat.mod_eq_of_lt this]

/-- R83, R84: the checksum, the header byte by byte, the payload where it stood, and the frame. -/
theorem framePacket_spec (len : Nat) (f : Word) (s : State) :
    let t := framePacket len f s
    t.csum = packetChecksum (readBytes .tx 0 len t) ∧
    (∀ (k : Nat) (h : k < 8), readByte .tx k t = s.magic[k]) ∧
    readByte .tx 8 t = hiByte t.csum ∧ readByte .tx 9 t = loByte t.csum ∧
    readByte .tx 10 t = hiByte f ∧ readByte .tx 11 t = loByte f ∧
    (∀ k, 12 ≤ k → readByte .tx k t = readByte .tx k s) ∧
    StatusShows s t 0 (statusSticky s.status) (statusMagicOk s.status) (statusLenOk s.status) ∧
    { t with tx := s.tx, txlen := s.txlen, flags := s.flags, csum := s.csum, status := s.status } = s :=
  ⟨framePacket_csum len f s, readByte_framePacket_magic len f s, readByte_framePacket_8 len f s,
    readByte_framePacket_9 len f s, readByte_framePacket_10 len f s, readByte_framePacket_11 len f s,
    fun _ hk => readByte_framePacket_outside (.inr hk) len f s, statusShows_completed (framePacket_status len f s),
    framePacket_frame len f s⟩

/-! ### BUILD -/

/-- What STATUS shows after an error (R13, R24, R25). -/
theorem statusShows_raiseError (c : ErrCode) (s : State) :
    StatusShows s (raiseError c s) c.bits true (statusMagicOk s.status) (statusLenOk s.status) := by
  constructor <;> simp

/-- Settles O26: PAYLEN decides whether BUILD frames the packet or raises TOO_LONG. -/
theorem buildFramesThePacketOrRaisesTooLong : Obligations.BuildFramesThePacketOrRaisesTooLong := by
  intro a q s
  rw [← lengthOf_eq_mod]
  refine ⟨fun fits => ?_, fun tooLong => ?_⟩
  · exact ⟨_, execBuild_of_fits (Nat.not_lt.2 fits) a q, lengthWord_toNat (Nat.add_le_add_left fits 12),
      framePacket_flags .., framePacket_spec ..⟩
  · exact ⟨_, execBuild_of_tooLong tooLong a q, statusShows_raiseError .tooLong s, rfl⟩

/-! ### BUILDACK -/

theorem readBytes_writeBytes (b : Buf) (a : Nat) (vs : List Byte) (s : State) :
    readBytes b a vs.length (writeBytes b a vs s) = vs := by
  refine List.ext_getElem (readBytes_length ..) fun k h hk => ?_
  rw [readBytes_getElem, readByte_writeBytes_inside b a vs s k hk]

/-- An even string followed by a zeroed checksum field and a flags word sums to the string's sum and the flags word. -/
theorem ocSum_append_header {bs : List Byte} {n : Nat} (h : bs.length = 2 * n) (f : Word) :
    ocSum (bs ++ [0x00, 0x00, hiByte f, loByte f]) = ocAdd (ocSum bs) f := by
  calc ocSum (bs ++ [0x00, 0x00, hiByte f, loByte f])
    _ = ocAdd (ocAdd (ocSum bs) 0#16) (beWord (hiByte f) (loByte f)) := by
      rw [ocSum, wordsOf_append _ _ n h, ocSumWords_append]; rfl
    _ = ocAdd (ocSum bs) f := by rw [ocAdd_zero, beWord_hi_lo]

/-- R84: a packet of the header alone has a checksum that depends on MAGIC and the flags word only. -/
theorem framePacket_header_csum (f : Word) (s : State) :
    (framePacket Config.hdrLen f s).csum = ~~~(ocAdd (ocSum s.magic.toList) f) := by
  have header : readBytes .tx 0 Config.hdrLen (writeHeader f s) = s.magic.toList ++ [0x00, 0x00, hiByte f, loByte f] := by
    have := readBytes_writeBytes .tx 0 (s.magic.toList ++ [0x00, 0x00, hiByte f, loByte f]) s
    rwa [headerBytes_length] at this
  rw [framePacket_csum_framed, header, checksum, ocSum_append_header (n := 4) (by simp)]

/-- R84: the flags word of an ACK. -/
theorem mkFlags_ack (q : Bit) : mkFlags (BitVec.ofNat 14 Config.hdrLen) 1 q = 0x0032 ||| q.setWidth 16 := by
  decide +revert

/-- Settles O27: BUILDACK frames the header alone, its flags word and checksum as R84 writes them. -/
theorem buildackFramesTheAck : Obligations.BuildackFramesTheAck := by
  intro q s
  rw [← mkFlags_ack]
  exact ⟨_, rfl, framePacket_txlen .., framePacket_flags .., framePacket_header_csum .., framePacket_spec ..⟩

end Sys2Proof.Machine
end

section
/-! PROOF. The round trip of a built packet through RX: what VERIFY, EXTSEQ and EXTACK find is what BUILD framed
(spec/41_build.md R86). What they find is read off the packet's bytes, in whichever buffer these stand. -/

namespace Sys2Proof.Machine

/-! ### The same packet in two buffers -/

section SamePacket

variable {b c : Buf} {s t : State} (h : packetBytes c t = packetBytes b s)

include h

theorem packetLen_of_packetBytes_eq : packetLen c t = packetLen b s := by
  rw [← packetBytes_length, h, packetBytes_length]

theorem readByte_of_packetBytes_eq {k : Nat} (hk : k < packetLen b s) : readByte c k t = readByte b k s := by
  have hkt : k < packetLen c t := by rwa [packetLen_of_packetBytes_eq h]
  have := List.getElem_of_eq h (by rwa [packetBytes_length])
  simpa [packetBytes, readBytes_getElem] using this

theorem readWord_of_packetBytes_eq {k : Nat} (hk : k + 1 < packetLen b s) : readWord c k t = readWord b k s := by
  rw [readWord, readWord, readByte_of_packetBytes_eq h (by omega), readByte_of_packetBytes_eq h hk]

/-- A copy of a packet that holds its checksum holds it too. -/
theorem holdsChecksum_of_packetBytes_eq (hs : holdsChecksum b s) : holdsChecksum c t := by
  obtain ⟨hlen, hc⟩ := hs
  refine ⟨by rwa [packetLen_of_packetBytes_eq h], ?_⟩
  rw [h, hc, readWord_of_packetBytes_eq h (Nat.lt_of_lt_of_le (by decide) hlen)]

end SamePacket

/-! ### VERIFY and the extractions on a packet that holds its checksum -/

/-- R87 for a valid packet: RES = 1, the flags word reported, the two checks, and RX kept. -/
theorem execVerify_of_holdsChecksum {s : State} (h : holdsChecksum .rx s) : ∃ v, exec .verify s = .next v ∧
    v.res = 1 ∧ v.flags = readWord .rx 10 s ∧ statusMagicOk v.status = magicMatches s ∧
    statusLenOk v.status = lenMatches s ∧ packetBytes .rx v = packetBytes .rx s := by
  have e := execVerify_of_header (Nat.not_lt.2 h.1)
  exact ⟨_, e, (execVerify_res_eq_one_iff e).2 h, by simp, by simp, by simp, packetBytes_rx_of_execVerify e⟩

/-- R88, R89 for a whole header: RES is the field of the flags word. -/
theorem extractBit_res {s : State} (h : Config.hdrLen ≤ packetLen .rx s) (field : Word → Bit) :
    (extractBit field s).res = bitWord (field (readWord .rx 10 s)) := by
  obtain ⟨short, -⟩ | ⟨-, e⟩ := extractBit_cases field s
  · exact absurd short (Nat.not_lt.2 h)
  · simp [e]

/-- R92: EXTSEQ and EXTACK keep the packet in RX. -/
theorem packetBytes_rx_extractBit (field : Word → Bit) (s : State) :
    packetBytes .rx (extractBit field s) = packetBytes .rx s := by
  obtain ⟨-, e⟩ | ⟨-, e⟩ := extractBit_cases field s <;> simp [e, packetBytes, packetLen, readBytes]

/-! ### A framed packet, arrived in RX -/

theorem packetLen_framePacket {len : Nat} (hmax : len ≤ Config.maxPktLen) (f : Word) (s : State) :
    packetLen .tx (framePacket len f s) = len := by
  rw [packetLen, framePacket_txlen, lengthOf_lengthWord hmax]

section Arrived

variable {len : Nat} {f : Word} {s u : State} (hmin : Config.hdrLen ≤ len) (hmax : len ≤ Config.maxPktLen)
  (arrived : packetBytes .rx u = packetBytes .tx (framePacket len f s))

include hmax arrived

theorem packetLen_of_arrived : packetLen .rx u = len := by
  rw [packetLen_of_packetBytes_eq arrived, packetLen_framePacket hmax]

include hmin

theorem readWord_flags_of_arrived : readWord .rx 10 u = f := by
  have hk : 10 + 1 < packetLen .tx (framePacket len f s) := by
    rw [packetLen_framePacket hmax]; exact hmin
  rw [readWord_of_packetBytes_eq arrived hk, readWord, readByte_framePacket_10, readByte_framePacket_11, beWord_hi_lo]

/-- R26: the magic tag of a framed packet is the block's own. -/
theorem magicMatches_of_arrived (hmagic : u.magic = s.magic) : magicMatches u = true := by
  have tag (k : Nat) (hk : k < 8) : readByte .rx k u = u.magic[k] := by
    have hlen : k < packetLen .tx (framePacket len f s) := by
      rw [packetLen_framePacket hmax]; exact hk.trans (Nat.lt_of_lt_of_le (by decide) hmin)
    rw [readByte_of_packetBytes_eq arrived hlen, readByte_framePacket_magic len f s k hk]
    simp [hmagic]
  exact decide_eq_true ⟨by rwa [packetLen_of_arrived hmax arrived], (readBytes_eq_magic_iff u).2 tag⟩

/-- R27: the length field of a framed packet is its length. -/
theorem lenMatches_of_arrived (hf : flagsLen f = BitVec.ofNat 14 len) : lenMatches u = true := by
  have : len < 2 ^ 14 := Nat.lt_succ_of_le hmax
  refine decide_eq_true ?_
  rw [packetLen_of_arrived hmax arrived, readWord_flags_of_arrived hmin hmax arrived, hf, BitVec.toNat_ofNat,
    Nat.mod_eq_of_lt this]
  exact ⟨hmin, rfl⟩

end Arrived

/-! ### Loopback -/

theorem presented_magic (d : List Byte) (s : State) : (presented d s).magic = s.magic :=
  (congrArg State.magic (presented_frame d s) :)

/-- R72: loopback leaves the packet of TX in RX, and MAGIC as it was. -/
theorem performAll_loopback (t : State) :
    ∃ u, performAll (loopback t) t = .next u ∧ packetBytes .rx u = packetBytes .tx t ∧ u.magic = t.magic := by
  have fits : (packetBytes .tx t).length ≤ Config.maxPktLen := by
    rw [packetBytes_length]; exact Nat.le_of_lt_succ (packetLen_lt .tx t)
  exact ⟨_, performAll_loadrx _ t fits, presented_packet _ t fits, presented_magic _ t⟩

/-- Settles O50: the packet BUILD framed stands in RX after the loopback and holds its checksum there; each command after that
keeps it, so that a second VERIFY and both extractions read the same packet. -/
theorem buildVerifyExtractRoundTrip : Obligations.BuildVerifyExtractRoundTrip := by
  intro a q s t fits built
  rw [← lengthOf_eq_mod] at fits ⊢
  obtain ⟨u, hu, copied, hmagic⟩ := performAll_loopback t
  cases (execBuild_of_fits (Nat.not_lt.2 fits) a q).symm.trans built
  rw [framePacket_magic] at hmagic
  have hmin : Config.hdrLen ≤ Config.hdrLen + lengthOf s.paylen := Nat.le_add_right ..
  have hmax : Config.hdrLen + lengthOf s.paylen ≤ Config.maxPktLen := Nat.add_le_add_left fits 12
  have valid_u : holdsChecksum .rx u := holdsChecksum_of_packetBytes_eq copied (holdsChecksum_framePacket hmin hmax ..)
  obtain ⟨v, hv, res_v, flags_v, magicOk, lenOk, kept_v⟩ := execVerify_of_holdsChecksum valid_u
  have valid_v : holdsChecksum .rx v := holdsChecksum_of_packetBytes_eq kept_v valid_u
  obtain ⟨v', hv', res_v', -⟩ := execVerify_of_holdsChecksum valid_v
  have kept_w : packetBytes .rx (extractBit flagsSeq v) = packetBytes .rx v := packetBytes_rx_extractBit ..
  have valid_w : holdsChecksum .rx (extractBit flagsSeq v) := holdsChecksum_of_packetBytes_eq kept_w valid_v
  have arrived_v := kept_v.trans copied
  refine ⟨u, v, v', _, _, hu, hv, res_v, ?_, ?_, ?_, hv', res_v', rfl, ?_, rfl, ?_⟩
  · exact flags_v.trans (readWord_flags_of_arrived hmin hmax copied)
  · exact magicOk.trans (magicMatches_of_arrived hmin hmax copied hmagic)
  · exact lenOk.trans (lenMatches_of_arrived hmin hmax copied (flagsLen_mkFlags ..))
  · rw [extractBit_res valid_v.1, readWord_flags_of_arrived hmin hmax arrived_v, flagsSeq_mkFlags]; rfl
  · rw [extractBit_res valid_w.1, readWord_flags_of_arrived hmin hmax (kept_w.trans arrived_v), flagsAck_mkFlags]; rfl

end Sys2Proof.Machine
end

section
/-! PROOF. The packet parser: VERIFY, EXTSEQ and EXTACK with their frames, and the RX they keep
(spec/42_verify_extract.md R87 to R89, R92). -/

namespace Sys2Proof.Machine

/-! ### VERIFY -/

theorem bitWord_boolBit_decide (p : Prop) [Decidable p] : bitWord (boolBit (decide p)) = if p then 1 else 0 := by
  split
  · rw [decide_eq_true ‹p›]; rfl
  · rw [decide_eq_false ‹¬p›]; rfl

/-- R87 for a whole header: what VERIFY recomputes, reports and compares, and its frame. -/
theorem execVerify_spec {s : State} (h : Config.hdrLen ≤ packetLen .rx s) : ∃ t, exec .verify s = .next t ∧
    t.csum = packetChecksum (packetBytes .rx s) ∧ t.flags = readWord .rx 10 s ∧
    t.res = (if t.csum = readWord .rx 8 s then 1 else 0) ∧
    StatusShows s t 0 (statusSticky s.status) (magicMatches s) (lenMatches s) ∧
    { t with res := s.res, csum := s.csum, flags := s.flags, status := s.status } = s := by
  refine ⟨_, execVerify_of_header (Nat.not_lt.2 h), rfl, rfl, ?_, ?_, rfl⟩
  · exact bitWord_boolBit_decide ..
  · constructor <;> simp [errNone]

/-- R87 below a header: RES and the two checks are cleared and TRUNC is raised. -/
theorem execVerify_spec_of_trunc {s : State} (h : packetLen .rx s < Config.hdrLen) : ∃ t, exec .verify s = .next t ∧
    t.res = 0 ∧ StatusShows s t 3 true false false ∧ { t with res := s.res, status := s.status } = s := by
  refine ⟨raiseError .trunc (setChecks false false (setRes 0x0000 s)), if_pos h, rfl, ?_, rfl⟩
  constructor <;> simp [ErrCode.bits]

/-- Settles O28: RXLEN decides whether VERIFY raises TRUNC or checks the packet; the two checks are what R26 and R27 say. -/
theorem verifyChecksThePacketOrRaisesTrunc : Obligations.VerifyChecksThePacketOrRaisesTrunc := by
  intro s
  refine ⟨fun short => ?_, fun whole => ?_⟩
  · exact execVerify_spec_of_trunc (by rwa [packetLen_eq_mod])
  · obtain ⟨t, ht, csum, flags, res, shows, frame⟩ := execVerify_spec (s := s) (by rwa [packetLen_eq_mod])
    rw [packetBytes_eq_map_range, packetLen_eq_mod] at csum
    refine ⟨t, magicMatches s, lenMatches s, ht, csum, flags, res, ?_, ?_, shows, frame⟩
    · rw [magicMatches_iff, and_iff_right whole]
    · rw [lenMatches_iff, and_iff_right whole, flags]; rfl

/-! ### EXTSEQ and EXTACK -/

/-- R88, R89 for a whole header: the flags word, its field, and the frame. -/
theorem extractBit_spec {s : State} (h : Config.hdrLen ≤ packetLen .rx s) (field : Word → Bit) :
    let t := extractBit field s
    t.res = bitWord (field (readWord .rx 10 s)) ∧ t.flags = readWord .rx 10 s ∧
    StatusShows s t 0 (statusSticky s.status) (statusMagicOk s.status) (statusLenOk s.status) ∧
    { t with res := s.res, flags := s.flags, status := s.status } = s := by
  obtain ⟨short, -⟩ | ⟨-, e⟩ := extractBit_cases field s
  · exact absurd short (Nat.not_lt.2 h)
  · rw [e]
    exact ⟨rfl, rfl, statusShows_completed rfl, rfl⟩

/-- R88, R89 below a header: RES is cleared and TRUNC is raised, whichever field was asked for. -/
theorem extractBit_spec_of_trunc {s : State} (h : packetLen .rx s < Config.hdrLen) (field : Word → Bit) :
    let t := extractBit field s
    t.res = 0 ∧ StatusShows s t 3 true (statusMagicOk s.status) (statusLenOk s.status) ∧
    { t with res := s.res, status := s.status } = s := by
  obtain ⟨-, e⟩ | ⟨whole, -⟩ := extractBit_cases field s
  · rw [e]
    refine ⟨rfl, ?_, rfl⟩
    constructor <;> simp [ErrCode.bits]
  · exact absurd h (Nat.not_lt.2 whole)

theorem beWord_toNat (hi lo : Byte) : (beWord hi lo).toNat = 256 * hi.toNat + lo.toNat := by
  rw [beWord, BitVec.toNat_append, ← Nat.shiftLeft_add_eq_or_of_lt lo.isLt, Nat.shiftLeft_eq, Nat.mul_comm]

theorem bitWord_toNat (b : Bit) : (bitWord b).toNat = b.toNat := BitVec.toNat_setWidth_of_le (by decide)

theorem flagsSeq_toNat (f : Word) : (flagsSeq f).toNat = f.toNat % 2 := by
  simp [flagsSeq]

theorem flagsAck_toNat (f : Word) : (flagsAck f).toNat = f.toNat / 2 % 2 := by
  simp [flagsAck, Nat.shiftRight_eq_div_pow]

/-- R88: seq_bit is bit 0 of the low byte. -/
theorem bitWord_flagsSeq_beWord (hi lo : Byte) : (bitWord (flagsSeq (beWord hi lo))).toNat = lo.toNat % 2 := by
  rw [bitWord_toNat, flagsSeq_toNat, beWord_toNat]
  omega

/-- R89: ack_bit is bit 1 of the low byte. -/
theorem bitWord_flagsAck_beWord (hi lo : Byte) : (bitWord (flagsAck (beWord hi lo))).toNat = lo.toNat / 2 % 2 := by
  rw [bitWord_toNat, flagsAck_toNat, beWord_toNat]
  omega

/-- Settles O29: R88 by RXLEN, seq_bit being bit 0 of the flags word's low byte. -/
theorem extseqReadsSeqBitOrRaisesTrunc : Obligations.ExtseqReadsSeqBitOrRaisesTrunc := by
  intro s
  refine ⟨fun short => ⟨_, rfl, extractBit_spec_of_trunc (by rwa [packetLen_eq_mod]) flagsSeq⟩, fun whole => ?_⟩
  obtain ⟨res, rest⟩ := extractBit_spec (s := s) (by rwa [packetLen_eq_mod]) flagsSeq
  exact ⟨_, rfl, by rw [res, readWord, bitWord_flagsSeq_beWord], rest⟩

/-- Settles O30: R89 by RXLEN, ack_bit being bit 1 of the flags word's low byte. -/
theorem extackReadsAckBitOrRaisesTrunc : Obligations.ExtackReadsAckBitOrRaisesTrunc := by
  intro s
  refine ⟨fun short => ⟨_, rfl, extractBit_spec_of_trunc (by rwa [packetLen_eq_mod]) flagsAck⟩, fun whole => ?_⟩
  obtain ⟨res, rest⟩ := extractBit_spec (s := s) (by rwa [packetLen_eq_mod]) flagsAck
  exact ⟨_, rfl, by rw [res, readWord, bitWord_flagsAck_beWord], rest⟩

/-! ### RX is read only -/

theorem extractBit_rx (field : Word → Bit) (s : State) : (extractBit field s).rx = s.rx := by
  obtain ⟨-, e⟩ | ⟨-, e⟩ := extractBit_cases field s <;> rw [e] <;> rfl

/-- What VERIFY decides by, it leaves as it was: RX, its length, MAGIC, and the draw an unwritten byte reads as. -/
theorem execVerify_keeps {s t : State} (h : exec .verify s = .next t) :
    t.rx = s.rx ∧ t.rxlen = s.rxlen ∧ t.magic = s.magic ∧ t.epoch = s.epoch := by
  by_cases hn : packetLen .rx s < Config.hdrLen
  · cases (execVerify_of_trunc hn).symm.trans h
    exact ⟨rfl, rfl, rfl, rfl⟩
  · cases (execVerify_of_header hn).symm.trans h
    exact ⟨rfl, rfl, rfl, rfl⟩

section Reverification

variable {s t : State} (h : exec .verify s = .next t)

include h

theorem packetLen_rx_of_execVerify : packetLen .rx t = packetLen .rx s := by
  obtain ⟨-, hlen, -, -⟩ := execVerify_keeps h
  rw [packetLen, packetLen, hlen]

theorem readByte_rx_of_execVerify (k : Nat) : readByte .rx k t = readByte .rx k s := by
  obtain ⟨hrx, -, -, hepoch⟩ := execVerify_keeps h
  exact readByte_congr (b := .rx) hrx hepoch k

theorem readWord_rx_of_execVerify (k : Nat) : readWord .rx k t = readWord .rx k s := by
  rw [readWord, readWord, readByte_rx_of_execVerify h, readByte_rx_of_execVerify h]

theorem magicMatches_of_execVerify : magicMatches t = magicMatches s := by
  obtain ⟨-, -, hmagic, -⟩ := execVerify_keeps h
  have tag : readBytes .rx 0 8 t = readBytes .rx 0 8 s := readBytes_congr fun k _ _ => readByte_rx_of_execVerify h k
  rw [magicMatches, magicMatches, packetLen_rx_of_execVerify h, tag, hmagic]

theorem lenMatches_of_execVerify : lenMatches t = lenMatches s := by
  rw [lenMatches, lenMatches, packetLen_rx_of_execVerify h, readWord_rx_of_execVerify h]

end Reverification

/-- Two states that show the same fields over the same reserved bits have the same STATUS. -/
theorem StatusShows.status_eq {s t u : State} {err : ErrBits} {sticky magicOk lenOk : Bool}
    (ht : StatusShows s t err sticky magicOk lenOk) (hu : StatusShows t u err sticky magicOk lenOk) : u.status = t.status :=
  status_ext (hu.err.trans ht.err.symm) (hu.sticky.trans ht.sticky.symm) (hu.magicOk.trans ht.magicOk.symm)
    (hu.lenOk.trans ht.lenOk.symm) hu.reserved

/-- R92: a second VERIFY finds what the first one found, and so answers the same state. -/
theorem execVerify_idempotent {s t : State} (h : exec .verify s = .next t) : exec .verify t = .next t := by
  have hlen := packetLen_rx_of_execVerify h
  by_cases hn : packetLen .rx s < Config.hdrLen
  · obtain ⟨_, e, res, shows, -⟩ := execVerify_spec_of_trunc hn
    cases e.symm.trans h
    obtain ⟨u, hu, res_u, shows_u, frame⟩ := execVerify_spec_of_trunc (hlen.trans_lt hn)
    rw [← shows.status_eq shows_u, res.trans res_u.symm] at frame
    exact hu.trans (congrArg Host.Outcome.next frame)
  · have whole := Nat.le_of_not_lt hn
    obtain ⟨_, e, csum, flags, res, shows, -⟩ := execVerify_spec whole
    cases e.symm.trans h
    obtain ⟨u, hu, csum_u, flags_u, res_u, shows_u, frame⟩ := execVerify_spec (whole.trans_eq hlen.symm)
    rw [packetBytes_rx_of_execVerify h, ← csum] at csum_u
    rw [readWord_rx_of_execVerify h, ← flags] at flags_u
    rw [csum_u, readWord_rx_of_execVerify h, ← res] at res_u
    rw [shows.sticky, magicMatches_of_execVerify h, lenMatches_of_execVerify h] at shows_u
    rw [← shows.status_eq shows_u, ← res_u, ← csum_u, ← flags_u] at frame
    exact hu.trans (congrArg Host.Outcome.next frame)

/-- Settles O48: none of the three commands writes RX, and VERIFY is idempotent. -/
theorem reverificationChangesNothing : Obligations.ReverificationChangesNothing := by
  refine ⟨fun i s t hi h => ?_, fun s t h => execVerify_idempotent h⟩
  simp only [List.mem_cons, List.not_mem_nil, or_false] at hi
  obtain rfl | rfl | rfl := hi
  · exact (execVerify_keeps h).1
  · cases h; exact extractBit_rx ..
  · cases h; exact extractBit_rx ..

end Sys2Proof.Machine
end

section
/-! PROOF. What VERIFY's exact comparison tells apart: how it differs from the sum of all the bytes, and that it detects every
change of a single byte (spec/42_verify_extract.md R90, R91). -/

namespace Sys2Proof.Machine

/-! ### The comparison and the sum of all the bytes (R91) -/

/-- R77, R78: the stored word is added to the sum of the rest. -/
theorem ocSum_eq_ocAdd_checksumField {bs : List Byte} (h : 10 ≤ bs.length) :
    ocSum bs = ocAdd (ocSum (zeroField bs)) (beWord bs[8] bs[9]) := by
  obtain ⟨pre, rest, hpre, hbs⟩ := exists_append_checksumField h
  generalize bs[8] = b₈, bs[9] = b₉ at hbs
  subst hbs
  refine BitVec.eq_of_toNat_eq ?_
  rw [ocAdd_toNat_eq_foldedSum, ocSum_toNat, ocSum_toNat, foldedSum_foldedSum_add, zeroField_append hpre,
    wordSum_append_checksumField hpre, wordSum_append_checksumField hpre, (beWord_eq_zero_iff 0 0).2 ⟨rfl, rfl⟩,
    BitVec.toNat_zero, Nat.add_zero]

theorem ocSum_packetBytes {b : Buf} {s : State} (h : Config.hdrLen ≤ packetLen b s) :
    ocSum (packetBytes b s) = ocAdd (ocSum (zeroField (packetBytes b s))) (readWord b 8 s) := by
  have hlen : 10 ≤ (packetBytes b s).length := by
    rw [packetBytes_length]; exact Nat.le_trans (by decide) h
  rw [ocSum_eq_ocAdd_checksumField hlen]
  simp only [packetBytes, readBytes_getElem]
  rfl

/-- R74: two words sum to 0xFFFF when they are complements, or when both are 0xFFFF. -/
theorem ocAdd_eq_ones_iff (x c : Word) : ocAdd x c = 0xFFFF ↔ ~~~x = c ∨ (x = 0xFFFF ∧ c = 0xFFFF) := by
  have hx := x.isLt
  have hc := c.isLt
  have ones : (0xFFFF : Word).toNat = 65535 := rfl
  simp only [BitVec.toNat_eq, ocAdd_toNat, BitVec.toNat_not, ones]
  omega

/-- R91: the all-bytes test accepts the packets that hold their checksum, and those whose rest sums to 0xFFFF and that store
0xFFFF. -/
theorem ocSum_packetBytes_eq_ones_iff {b : Buf} {s : State} (h : Config.hdrLen ≤ packetLen b s) :
    ocSum (packetBytes b s) = 0xFFFF ↔
      holdsChecksum b s ∨ (ocSum (zeroField (packetBytes b s)) = 0xFFFF ∧ readWord b 8 s = 0xFFFF) := by
  rw [ocSum_packetBytes h, ocAdd_eq_ones_iff, holdsChecksum, and_iff_right h]
  rfl

/-- Settles O49: VERIFY answers whether the packet holds its checksum, which the all-bytes test misses in the one case of
`ocSum_packetBytes_eq_ones_iff`. -/
theorem verifyComparesExactly : Obligations.VerifyComparesExactly := by
  refine ⟨fun s h rest h₈ h₉ => ?_, fun s h other => ?_, fun s h => ?_⟩
  · have stored : readWord .rx 8 s = 0xFFFF := by rw [readWord, h₈, h₉]; rfl
    have ones : ocSum (packetBytes .rx s) = 0xFFFF := (ocSum_packetBytes_eq_ones_iff h).2 (.inr ⟨rest, stored⟩)
    obtain ⟨t, ht, csum, -, res, -⟩ := execVerify_spec h
    have recomputed : t.csum = 0x0000 := csum.trans (checksum_of_ocSum_ones rest)
    refine ⟨⟨t, ht, recomputed, ?_⟩, ones, _, execCsum_eq .rx s, checksum_of_ocSum_ones ones⟩
    rw [res, recomputed, stored]; rfl
  · obtain ⟨t, ht, -⟩ := execVerify_spec h
    refine ⟨t, ht, ?_⟩
    have other : ¬(ocSum (zeroField (packetBytes .rx s)) = 0xFFFF ∧ readWord .rx 8 s = 0xFFFF) :=
      not_and_or.2 other
    rw [ocSum_packetBytes_eq_ones_iff h, or_iff_left other]
    exact execVerify_res_eq_one_iff ht
  · obtain ⟨t, ht, csum, -, res, -⟩ := execVerify_spec h
    exact ⟨t, ht, csum ▸ res⟩

/-! ### The exact sum, byte by byte (R90) -/

/-- R73: what a byte counts for in the exact sum, by its place in its word. -/
def byteWeight (k : Nat) : Nat := if k % 2 = 0 then 256 else 1

@[simp] theorem byteWeight_zero : byteWeight 0 = 256 := rfl

@[simp] theorem byteWeight_one : byteWeight 1 = 1 := rfl

@[simp] theorem byteWeight_add_two (k : Nat) : byteWeight (k + 2) = byteWeight k := by simp [byteWeight]

/-- Changing one byte changes the exact sum by the byte's weight times the change. -/
theorem wordSum_set {bs : List Byte} {k : Nat} (h : k < bs.length) (v : Byte) :
    wordSum (wordsOf (bs.set k v)) + byteWeight k * bs[k].toNat = wordSum (wordsOf bs) + byteWeight k * v.toNat := by
  induction bs using wordsOf.induct generalizing k with
  | case1 => exact absurd h (Nat.not_lt_zero k)
  | case2 b =>
    obtain rfl : k = 0 := Nat.lt_one_iff.1 h
    simp only [List.set_cons_zero, List.getElem_cons_zero, wordsOf_single, wordSum_cons, beWord_toNat, byteWeight_zero]
    omega
  | case3 b₀ b₁ rest ih =>
    match k with
    | 0 =>
      simp only [List.set_cons_zero, List.getElem_cons_zero, wordsOf_pair, wordSum_cons, beWord_toNat, byteWeight_zero]
      omega
    | 1 =>
      simp only [List.set_cons_succ, List.set_cons_zero, List.getElem_cons_succ, List.getElem_cons_zero, wordsOf_pair,
        wordSum_cons, beWord_toNat, byteWeight_one]
      omega
    | k + 2 =>
      have rest_eq := ih (k := k) (by simpa using h)
      simp only [List.set_cons_succ, List.getElem_cons_succ, wordsOf_pair, wordSum_cons, byteWeight_add_two]
      omega

/-- R79: a sum of 0xFFFF is a multiple of 65535. -/
theorem wordSum_mod_of_ocSum_ones {bs : List Byte} (h : ocSum bs = 0xFFFF) : wordSum (wordsOf bs) % 65535 = 0 := by
  rw [← foldedSum_mod, ← ocSum_toNat, h]; rfl

/-- A change of one byte moves the exact sum by less than 65535: two strings that both sum to 0xFFFF do not differ in one
byte alone. -/
theorem eq_getElem_of_ocSum_set_ones {bs : List Byte} {k : Nat} (h : k < bs.length) {v : Byte} (hbs : ocSum bs = 0xFFFF)
    (hset : ocSum (bs.set k v) = 0xFFFF) : v = bs[k] := by
  have old := wordSum_mod_of_ocSum_ones hbs
  have new := wordSum_mod_of_ocSum_ones hset
  have change := wordSum_set h v
  have hv := v.isLt
  have hb := bs[k].isLt
  refine BitVec.eq_of_toNat_eq ?_
  unfold byteWeight at change
  split at change <;> omega

/-! ### One byte of RX changed -/

theorem packetLen_writeByte (b c : Buf) (k : Nat) (v : Byte) (s : State) :
    packetLen b (writeByte c k v s) = packetLen b s := by
  cases b <;> simp [packetLen]

theorem packetBytes_writeByte (b : Buf) (k : Nat) (v : Byte) (s : State) :
    packetBytes b (writeByte b k v s) = (packetBytes b s).set k v := by
  refine List.ext_getElem (by simp [packetLen_writeByte]) fun i h₁ h₂ => ?_
  rw [List.getElem_set]
  simp only [packetBytes, readBytes_getElem, Nat.zero_add]
  split
  · subst i; exact readByte_writeByte_same ..
  · exact readByte_writeByte_other (.inr (Ne.symm ‹_›)) ..

/-- R90: a packet that holds its checksum no longer does when one of its bytes changes. -/
theorem not_holdsChecksum_writeByte {b : Buf} {s : State} (h : holdsChecksum b s) {k : Nat} (hk : k < packetLen b s)
    {v : Byte} (hv : v ≠ readByte b k s) : ¬ holdsChecksum b (writeByte b k v s) := by
  intro h'
  have ones := (ocSum_packetBytes_eq_ones_iff h.1).2 (.inl h)
  have ones' := (ocSum_packetBytes_eq_ones_iff h'.1).2 (.inl h')
  rw [packetBytes_writeByte] at ones'
  refine hv ((eq_getElem_of_ocSum_set_ones (by rwa [packetBytes_length]) ones ones').trans ?_)
  simp only [packetBytes, readBytes_getElem, Nat.zero_add]

theorem xor_bit_ne (v : Byte) {j : Nat} (hj : j < 8) : v ^^^ (1 <<< j : Nat) ≠ v := by
  have : ((1 <<< j : Nat) : Byte) ≠ 0#8 := by decide +revert
  simpa using this

/-- R90's second counterexample: bit 8 set in the first word and clear in the second, in a packet that holds its checksum. -/
def twoWordsInRx : State := presented [0x01, 0, 0, 0, 0, 0, 0, 0, 0xFE, 0xFF, 0, 0] State.reset

/-- Settles O51: inverting a bit changes one byte, so the packet no longer holds its checksum; inverting the same bit in two
words, one up and one down, keeps the sum. -/
theorem verifyDetectsEverySingleBitError : Obligations.VerifyDetectsEverySingleBitError := by
  refine ⟨fun s t k j h ht valid hk hj => ?_, ?_⟩
  · have kept := packetBytes_rx_of_execVerify ht
    have valid_t : holdsChecksum .rx t := holdsChecksum_of_packetBytes_eq kept ((execVerify_res_eq_one_iff ht).1 valid)
    have hk_t : k < packetLen .rx t := hk.trans_eq (packetLen_of_packetBytes_eq kept).symm
    have broken := not_holdsChecksum_writeByte valid_t hk_t (xor_bit_ne (readByte .rx k t) hj)
    have whole := valid_t.1
    rw [← packetLen_writeByte] at whole
    obtain ⟨u, hu, csum, -, res, -⟩ := execVerify_spec whole
    refine ⟨u, hu, res.trans (if_neg fun same => broken ⟨whole, csum.symm.trans same⟩)⟩
  · exact ⟨twoWordsInRx, _, _, 0, 2, 0, by decide, by decide, by decide, rfl, by decide, rfl, by decide⟩

end Sys2Proof.Machine
end

section
/-! PROOF. The control commands: NOP and ERR, CLRERR and STICKY (spec/43_control.md R93, R94). -/

namespace Sys2Proof.Machine

/-! ### NOP -/

/-- Whether a command raises an error is decided by the length registers, never by STATUS (R99, R100). -/
theorem commandError_status_update (i : Instr) (w : Word) (s : State) :
    commandError i { s with status := w } = commandError i s := by
  cases i <;> rfl

/-- Settles O23: every command but NOP leaves in ERR the outcome it raises or completes with, which STATUS does not enter. -/
theorem nopCompletesWithNoEffect : Obligations.NopCompletesWithNoEffect := by
  refine ⟨fun s => rfl, fun i e s t u hi ht hu => ?_⟩
  have err_t : statusErr t.status = outcomeErr (commandError i s) := by
    rw [exec_status ht, statusErr_commandStatus hi]
  have err_u : statusErr u.status = outcomeErr (commandError i s) := by
    rw [exec_status hu, statusErr_commandStatus hi, commandError_status_update]
  exact err_u.trans err_t.symm

/-! ### CLRERR -/

/-- The STATUS that CLRERR leaves: no error, no record of one, and the two checks as they were. -/
theorem statusShows_cleared (s : State) :
    StatusShows s (setStatus (withSticky false (withErr errNone s.status)) s) 0 false
      (statusMagicOk s.status) (statusLenOk s.status) := by
  constructor <;> simp [errNone]

/-- Settles O24: CLRERR writes STATUS alone; STICKY after any other command is STICKY before it or the error it raised. -/
theorem clrerrCompletesClearingTheRecord : Obligations.ClrerrCompletesClearingTheRecord := by
  refine ⟨fun s => ⟨_, rfl, statusShows_cleared s, rfl⟩, fun i s t hi ht sticky => ?_⟩
  rw [exec_status ht, statusSticky_commandStatus hi, sticky, Bool.true_or]

end Sys2Proof.Machine
end

section
/-! PROOF. The three errors, each with the condition that raises it and what it writes (spec/60_exceptions.md R98 to R100). -/

namespace Sys2Proof.Machine

/-! ### ILLEGAL_CMD -/

theorem legalWord_encode (i : Instr) : legalWord (encode i) = true := by
  have every : ∀ j ∈ commands, legalWord (encode j) = true := by decide
  exact every i (mem_commands i)

theorem decode_of_not_legalWord {w : Word} (h : legalWord w = false) : ∃ r, decode w = .error r := by
  cases hd : decode w with
  | error r => exact ⟨r, rfl⟩
  | ok i =>
    rw [← encode_of_decode hd, legalWord_encode] at h
    cases h

theorem perform_commandWord_of_illegal {w : Word} {r : IllegalReason} (h : decode w = .error r) (s : State) :
    perform (.writeReg 0 w) s = .next (raiseError .illegalCmd s) := by
  change runCommandWord w s = _
  rw [runCommandWord, h]

/-- Settles O31: the decoder rejects the word, and the one effect of a rejected word is to raise ILLEGAL_CMD. -/
theorem illegalWordRecordsIllegalCmdOnly : Obligations.IllegalWordRecordsIllegalCmdOnly := by
  intro w s h
  obtain ⟨r, hr⟩ := decode_of_not_legalWord h
  exact ⟨_, perform_commandWord_of_illegal hr s, statusShows_raiseError .illegalCmd s, rfl⟩

/-! ### TOO_LONG and TRUNC -/

/-- Every command ends in a next state, by an error or by completing. -/
theorem exists_exec_eq_next (i : Instr) (s : State) : ∃ t, exec i s = .next t := by
  cases i with
  | nop | csum | buildack | extseq | extack | clrerr => exact ⟨_, rfl⟩
  | build a q =>
    by_cases h : Config.maxPayload < lengthOf s.paylen
    · exact ⟨_, execBuild_of_tooLong h a q⟩
    · exact ⟨_, execBuild_of_fits h a q⟩
  | verify =>
    by_cases h : packetLen .rx s < Config.hdrLen
    · exact ⟨_, execVerify_of_trunc h⟩
    · exact ⟨_, execVerify_of_header h⟩

/-- Settles O32: BUILD's outcome in ERR is decided by PAYLEN, and over the limit the error is all there is. -/
theorem tooLongExactlyAboveTheLimit : Obligations.TooLongExactlyAboveTheLimit := by
  intro a q s
  obtain ⟨t, ht⟩ := exists_exec_eq_next (.build a q) s
  refine ⟨t, ht, ?_, fun tooLong => ?_⟩
  · rw [exec_status ht, statusErr_commandStatus (i := .build a q) nofun, outcomeErr_build]
    simp
  · rw [← lengthOf_eq_mod] at tooLong
    cases (execBuild_of_tooLong tooLong a q).symm.trans ht
    exact ⟨statusShows_raiseError .tooLong s, rfl⟩

/-- R100: below a header VERIFY, EXTSEQ and EXTACK clear RES, and VERIFY its two checks, as they raise TRUNC. -/
theorem exec_of_trunc {i : Instr} {s t : State} (hi : i ∈ [Instr.verify, .extseq, .extack])
    (h : packetLen .rx s < Config.hdrLen) (ht : exec i s = .next t) :
    t.res = 0 ∧ statusSticky t.status = true ∧
    (i = .verify → statusMagicOk t.status = false ∧ statusLenOk t.status = false) := by
  simp only [List.mem_cons, List.not_mem_nil, or_false] at hi
  obtain rfl | rfl | rfl := hi
  · obtain ⟨u, hu, res, shows, -⟩ := execVerify_spec_of_trunc h
    cases hu.symm.trans ht
    exact ⟨res, shows.sticky, fun _ => ⟨shows.magicOk, shows.lenOk⟩⟩
  · cases ht
    exact (extractBit_spec_of_trunc h flagsSeq).imp_right fun ⟨shows, _⟩ => ⟨shows.sticky, nofun⟩
  · cases ht
    exact (extractBit_spec_of_trunc h flagsAck).imp_right fun ⟨shows, _⟩ => ⟨shows.sticky, nofun⟩

/-- The three commands that read a header from RX raise TRUNC or nothing, and their outcome is left in ERR. -/
theorem statusErr_of_readsHeader {i : Instr} {s t : State} (hi : i ∈ [Instr.verify, .extseq, .extack])
    (ht : exec i s = .next t) : statusErr t.status = outcomeErr (truncError s) := by
  simp only [List.mem_cons, List.not_mem_nil, or_false] at hi
  rw [exec_status ht]
  obtain rfl | rfl | rfl := hi <;> exact statusErr_commandStatus (by nofun) s

/-- Settles O33: the outcome of the three commands in ERR is decided by RXLEN, and below a header each clears its results. -/
theorem truncExactlyBelowTheHeader : Obligations.TruncExactlyBelowTheHeader := by
  intro i s hi
  obtain ⟨t, ht⟩ := exists_exec_eq_next i s
  refine ⟨t, ht, ?_, fun short => exec_of_trunc hi (by rwa [packetLen_eq_mod]) ht⟩
  rw [statusErr_of_readsHeader hi ht, outcomeErr_truncError]
  simp

end Sys2Proof.Machine
end

section
/-! PROOF. The decoder against the rows of R62 and their masks, and the words the spec writes out (spec/30_encoding.md R60 to
R64). -/

namespace Sys2Proof

open Machine (legalWord_encode)

/-- A word is its bits from 2 on, and its two operand bits (R60). -/
theorem word_eq_or_operandBits (w : Word) : w = (w &&& 0xFFFC) ||| (w.setWidth 2).setWidth 16 := by
  refine BitVec.eq_of_getLsbD_eq fun k hk => ?_
  by_cases h : k < 2
  · interval_cases k <;> simp
  · interval_cases k <;> simp at h ⊢

/-- Every mask of R62 keeps the bits from 2 on, so that a row fixes them. -/
theorem OpcodeRow.and_of_admits {r : OpcodeRow} (hr : r ∈ opcodeMap) {w : Word} (h : r.admits w = true) :
    w &&& 0xFFFC = r.value &&& 0xFFFC := by
  have mask : ∀ r ∈ opcodeMap, r.mask &&& 0xFFFC = 0xFFFC := by decide
  calc w &&& 0xFFFC
    _ = (w &&& r.mask) &&& 0xFFFC := by rw [BitVec.and_assoc, mask r hr]
    _ = r.value &&& 0xFFFC := by rw [eq_of_beq h]

/-- R62: with its operand bits varied in every way, a row admits the words of commands only. -/
theorem exists_encode_of_legalWord {w : Word} (h : legalWord w = true) : ∃ i, encode i = w := by
  have rows : ∀ r ∈ opcodeMap, ∀ operands : BitVec 2,
      r.admits ((r.value &&& 0xFFFC) ||| operands.setWidth 16) = true →
        ∃ i ∈ commands, encode i = (r.value &&& 0xFFFC) ||| operands.setWidth 16 := by decide
  obtain ⟨r, hr, admits⟩ := List.any_eq_true.1 h
  have hw := word_eq_or_operandBits w
  rw [OpcodeRow.and_of_admits hr admits] at hw
  obtain ⟨i, -, hi⟩ := rows r hr (w.setWidth 2) (hw ▸ admits)
  exact ⟨i, hi.trans hw.symm⟩

/-- Settles O2: a word decodes to the command it is the word of, and the words of the commands are the legal ones. -/
theorem decodeAndEncodeAgree : Obligations.DecodeAndEncodeAgree := by
  refine ⟨fun i => ⟨decode_encode i, legalWord_encode i⟩, fun w i => encode_of_decode, fun w => ?_⟩
  simp only [decode_eq_ok_iff]
  exact ⟨exists_encode_of_legalWord, fun ⟨i, hi⟩ => hi ▸ legalWord_encode i⟩

/-- Settles O3: nine of the words are the words of their commands; the other three have a reserved bit set or an unassigned
OP. -/
theorem specWordsDecode : Obligations.SpecWordsDecode := by
  simp only [Obligations.SpecWordsDecode, decode_eq_ok_iff]
  decide

end Sys2Proof
end

section
/-! PROOF. One host access at a time: what each leaves, said once (`served_of_perform`), and the statements about the step and
the ports (spec/20_memory.md R42 to R45, spec/10_state.md R36, R41). -/

namespace Sys2Proof.Machine

/-! ### What an access can do -/

/-- What the block does for each access it serves: a command word is the word of a command, or illegal. -/
inductive Served (s : State) : HostAccess → State → Prop
  | reset : Served s .reset (resetBlock s)
  | command {i : Instr} {t : State} (h : exec i s = .next t) : Served s (.writeReg 0 (encode i)) t
  | illegal {w : Word} {r : IllegalReason} (h : decode w = .error r) : Served s (.writeReg 0 w) (raiseError .illegalCmd s)
  | register {i : RegIndex} (h : i ≠ 0) (w : Word) : Served s (.writeReg i w) (storeReg (Reg.ofIndex i) w s)
  | readReg (i : RegIndex) : Served s (.readReg i) (reply (.reg (readReg i s)) s)
  | byte (b : Buf) (a : BufAddr) (v : Byte) : Served s (.writeBuf b a v) (writeByte b a.toNat v s)
  | readByte (b : Buf) (a : BufAddr) : Served s (.readBuf b a) (reply (.byte (readByte b a.toNat s)) s)

theorem perform_writeReg_of_ne_zero {i : RegIndex} (hi : i ≠ 0) (w : Word) (s : State) :
    perform (.writeReg i w) s = .next (storeReg (Reg.ofIndex i) w s) := hostWriteReg_of_ne_zero hi w s

theorem perform_encode (i : Instr) (s : State) : perform (.writeReg 0 (encode i)) s = exec i s :=
  perform_command_of_decode (decode_encode i) s

/-- A word written to CMD is the word of a command, or it is illegal. -/
theorem encode_or_illegal (w : Word) : (∃ i, w = encode i) ∨ ∃ r, decode w = .error r := by
  cases hd : decode w with
  | ok i => exact .inl ⟨i, (encode_of_decode hd).symm⟩
  | error r => exact .inr ⟨r, rfl⟩

theorem served_of_perform {x : HostAccess} {s t : State} (h : perform x s = .next t) : Served s x t := by
  cases x with
  | reset => cases h; exact .reset
  | writeReg i w =>
    by_cases hi : i = 0
    · subst hi
      obtain ⟨i, rfl⟩ | ⟨r, hr⟩ := encode_or_illegal w
      · exact .command ((perform_encode i s).symm.trans h)
      · cases (perform_commandWord_of_illegal hr s).symm.trans h
        exact .illegal hr
    · cases (perform_writeReg_of_ne_zero hi w s).symm.trans h
      exact .register hi w
  | readReg i => cases h; exact .readReg i
  | writeBuf b a v => cases h; exact .byte b a v
  | readBuf b a => cases h; exact .readByte b a

theorem exists_perform_eq_next (x : HostAccess) (s : State) : ∃ t, perform x s = .next t := by
  cases x with
  | reset | readReg | writeBuf | readBuf => exact ⟨_, rfl⟩
  | writeReg i w =>
    by_cases hi : i = 0
    · subst hi
      obtain ⟨i, rfl⟩ | ⟨r, hr⟩ := encode_or_illegal w
      · rw [perform_encode]; exact exists_exec_eq_next i s
      · exact ⟨_, perform_commandWord_of_illegal hr s⟩
    · exact ⟨_, perform_writeReg_of_ne_zero hi w s⟩

/-! ### The step -/

theorem step_of_no_inputs {s : State} (h : s.inputs = []) : step s = .next s := by
  unfold step
  rw [h]

/-- A step serves the oldest access, or holds the state. -/
theorem step_cases {s t : State} (h : step s = .next t) :
    (s.inputs = [] ∧ t = s) ∨ ∃ x rest, s.inputs = x :: rest ∧ Served (withInputs rest s) x t := by
  cases hx : s.inputs with
  | nil => cases (step_of_no_inputs hx).symm.trans h; exact .inl ⟨rfl, rfl⟩
  | cons x rest => exact .inr ⟨x, rest, rfl, served_of_perform ((step_of_inputs hx).symm.trans h)⟩

/-- Settles O7: the two branches of the step. -/
theorem stepServesOldestAccessOrHolds : Obligations.StepServesOldestAccessOrHolds :=
  ⟨fun _ _ _ h => step_of_inputs h, fun _ h => step_of_no_inputs h⟩

/-- Settles O5: the step serves the write to CMD, and the word runs the command it decodes to. -/
theorem stepRunsTheDecodedCommand : Obligations.StepRunsTheDecodedCommand := by
  intro s w i rest hx hd
  rw [step_of_inputs hx]
  exact perform_command_of_decode hd _

/-- Settles O6: the access at the head of the queue is the command's word, and serving it takes it off again. -/
theorem fetchWordRunsTheCommand : Obligations.FetchWordRunsTheCommand := by
  intro s i
  have word : BitVec.ofNat 16 ((encode i).toNat % 2 ^ 16) = encode i := by
    rw [Nat.mod_eq_of_lt (encode i).isLt, BitVec.ofNat_toNat, BitVec.setWidth_eq]
  rw [State.withFetchWord, word]
  exact (step_of_inputs rfl).trans (perform_encode i s)

/-- Settles O8: every access is served with a next state, so a step is, and a sequence of accesses by induction on it. -/
theorem blockNeverStops : Obligations.BlockNeverStops := by
  refine ⟨fun s => ?_, fun xs => ?_⟩
  · cases hx : s.inputs with
    | nil => exact ⟨s, step_of_no_inputs hx⟩
    | cons x rest => rw [step_of_inputs hx]; exact exists_perform_eq_next ..
  · induction xs with
    | nil => exact fun s => ⟨s, rfl⟩
    | cons x xs ih =>
      intro s
      obtain ⟨t, ht⟩ := exists_perform_eq_next x s
      rw [performAll, ht]
      exact ih t

/-! ### Registers -/

theorem and_mask_toNat (w : Word) (n : Nat) (h : 2 ^ n - 1 < 2 ^ 16) :
    (w &&& BitVec.ofNat 16 (2 ^ n - 1)).toNat = w.toNat % 2 ^ n := by
  rw [BitVec.toNat_and, BitVec.toNat_ofNat, Nat.mod_eq_of_lt h, Nat.and_two_pow_sub_one_eq_mod]

/-- R36: the indices above 7 name no register. -/
theorem Reg.ofIndex_eq_reserved {i : RegIndex} (h : 8 ≤ i.toNat) : Reg.ofIndex i = .reserved := by
  decide +revert

theorem readReg_of_reserved {i : RegIndex} (h : 8 ≤ i.toNat) (s : State) : readReg i s = 0 := by
  rw [readReg, Reg.ofIndex_eq_reserved h]; exact BitVec.zero_and

/-- R18: a register with no writable bit ignores the write. -/
theorem storeReg_of_writeMask_zero {r : Reg} (h : r.writeMask = 0) (w : Word) (s : State) : storeReg r w s = s := by
  cases r with
  | paylen | txlen | rxlen => exact absurd h (by decide)
  | cmd | status | flags | csum | res | reserved => rfl

/-- Settles O9: a write to PAYLEN, TXLEN or RXLEN stores the word under its mask, which is the word modulo 2^14; a write to any
other register but CMD stores nothing. -/
theorem hostRegisterWrites : Obligations.HostRegisterWrites := by
  intro w s
  have stored : (w &&& 0x3FFF).toNat = w.toNat % 16384 := and_mask_toNat w 14 (by decide)
  refine ⟨⟨_, rfl, stored, rfl⟩, ⟨_, rfl, stored, rfl⟩, ⟨_, rfl, stored, rfl⟩, fun i hi => ?_⟩
  have readOnly : i ≠ 0 ∧ (Reg.ofIndex i).writeMask = 0 := by decide +revert
  rw [perform_writeReg_of_ne_zero readOnly.1, storeReg_of_writeMask_zero readOnly.2]

/-- Settles O10: a read of a register answers its stored value under its mask, and puts it at the head of the replies. -/
theorem hostRegisterReads : Obligations.HostRegisterReads := fun s =>
  ⟨fun _ => rfl, and_mask_toNat s.status 6 (by decide), and_mask_toNat s.paylen 14 (by decide),
    and_mask_toNat s.txlen 14 (by decide), and_mask_toNat s.rxlen 14 (by decide), BitVec.and_allOnes, BitVec.and_allOnes,
    and_mask_toNat s.res 1 (by decide), BitVec.zero_and, fun _ h => readReg_of_reserved h s⟩

/-- Settles O11: a reserved index stores nothing, so it reads 0 and a write to it is lost. -/
theorem reservedIndicesReadZeroIgnoreWrites : Obligations.ReservedIndicesReadZeroIgnoreWrites := by
  intro i w s h
  have hi : i ≠ 0 := by rintro rfl; exact absurd h (by decide)
  refine ⟨?_, ?_⟩
  · rw [perform, readReg_of_reserved h]; rfl
  · rw [perform_writeReg_of_ne_zero hi, Reg.ofIndex_eq_reserved h]; rfl

/-- A host write stores into the three length registers at most (R18, R29 to R31). -/
theorem storeReg_eq (r : Reg) (w : Word) (s : State) :
    ∃ paylen txlen rxlen, storeReg r w s = { s with paylen, txlen, rxlen } := by
  cases r <;> exact ⟨_, _, _, rfl⟩

/-! ### Buffers and reset -/

theorem writeByte_frame (b : Buf) (a : Nat) (v : Byte) (s : State) :
    { writeByte b a v s with tx := s.tx, rx := s.rx } = s := by
  cases b <;> rfl

/-- Settles O12: the byte written is the byte read, and a buffer write touches no other byte and no register. -/
theorem hostBufferAccess : Obligations.HostBufferAccess := fun b a v s =>
  ⟨⟨_, rfl, readByte_writeByte_same b a.toNat v s, fun _ _ h => readByte_writeByte_other h v s, writeByte_frame b a.toNat v s⟩,
    rfl⟩

/-- Settles O14: after a reset no byte is written, so each reads as the draw of the new epoch. -/
theorem resetDrawsBuffersAnewAndKeepsMagic : Obligations.ResetDrawsBuffersAnewAndKeepsMagic := fun s =>
  ⟨resetBlock s, rfl, rfl, rfl, rfl, fun b _ => by cases b <;> rfl, rfl, rfl⟩

/-- Settles O40: a buffer write touches a buffer alone, a write to a register other than CMD a length register at most. -/
theorem resultsAreSnapshots : Obligations.ResultsAreSnapshots := by
  refine ⟨fun b a v s t h => ?_, fun i w s t hi h => ?_⟩
  · cases h
    exact ⟨writeByte_res .., writeByte_csum .., writeByte_flags .., writeByte_status ..⟩
  · cases (perform_writeReg_of_ne_zero hi w s).symm.trans h
    obtain ⟨_, _, _, e⟩ := storeReg_eq (Reg.ofIndex i) w s
    rw [e]
    exact ⟨rfl, rfl, rfl, rfl⟩

end Sys2Proof.Machine
end

section
/-! PROOF. How bytes pair into words, and the invariances of the checksum (spec/40_checksum.md R73, R80). -/

namespace Sys2Proof.Machine

/-- Settles O15, by the recursion of `wordsOf`: each step takes two bytes and moves to the next word. -/
theorem wordsArePairedBigEndianAndPadded : Obligations.WordsArePairedBigEndianAndPadded := by
  intro bs k
  induction bs using wordsOf.induct generalizing k with
  | case1 => simp [wordsOf_nil]
  | case2 b =>
    cases k with
    | zero => simp [wordsOf_single, beWord]
    | succ k => simp [wordsOf_single]
  | case3 b₀ b₁ rest ih =>
    cases k with
    | zero => simp [wordsOf_pair, beWord]
    | succ k =>
      have twice : 2 * (k + 1) = 2 * k + 1 + 1 := by omega
      simp [wordsOf_pair, ih, twice]

/-! ### Order and zero words -/

/-- R80 (a): the exact sum, and so the folded one, does not depend on the order. -/
theorem ocSumWords_perm {xs ys : List Word} (h : xs.Perm ys) : ocSumWords xs = ocSumWords ys := by
  refine BitVec.eq_of_toNat_eq ?_
  rw [ocSumWords_toNat, ocSumWords_toNat, wordSum, wordSum, (h.map _).sum_eq]

/-- R80 (b): after an even string a zero byte is paired with the padding into a zero word, which drops out. -/
theorem ocSum_append_zero {bs : List Byte} (h : bs.length % 2 = 0) : ocSum (bs ++ [0]) = ocSum bs := by
  have even : bs.length = 2 * (bs.length / 2) := by omega
  calc ocSum (bs ++ [0])
    _ = ocSumWords (wordsOf bs ++ 0 :: []) := by rw [ocSum, wordsOf_append _ _ _ even]; rfl
    _ = ocSum bs := by rw [ocSumWords_append_zero_cons, List.append_nil]; rfl

/-- Settles O20: the exact sum of the words decides, and neither their order nor a zero among them enters it. -/
theorem checksumIgnoresOrderAndZeroWords : Obligations.ChecksumIgnoresOrderAndZeroWords :=
  ⟨fun _ _ => ocSumWords_perm, ocSumWords_append_zero_cons,
    fun _ h => ⟨ocSum_append_zero h, congrArg (~~~ ·) (ocSum_append_zero h)⟩⟩

/-- Settles O21: the checksum stored is the complement of the rest of the sum. -/
theorem validPacketSumsToAllOnes : Obligations.ValidPacketSumsToAllOnes := fun bs h stored =>
  have ones : ocSum bs = 0xFFFF := ocSum_of_holds_packetChecksum (Nat.le_trans (by decide) h) stored
  ⟨ones, checksum_of_ocSum_ones ones⟩

/-! ### Swapped bytes -/

/-- A word with its two bytes swapped. -/
def byteSwap (w : Word) : Word := beWord (loByte w) (hiByte w)

/-- Swapping the bytes is multiplying by 256 under end-around carry. -/
theorem byteSwap_toNat (w : Word) : (byteSwap w).toNat = foldedSum (256 * w.toNat) := by
  have hw := w.isLt
  have hi : (hiByte w).toNat = w.toNat / 256 := by
    simp only [hiByte, BitVec.extractLsb'_toNat, Nat.shiftRight_eq_div_pow]
    omega
  have lo : (loByte w).toNat = w.toNat % 256 := by simp [loByte]
  rw [byteSwap, beWord_toNat, hi, lo, foldedSum]
  split <;> omega

theorem foldedSum_mul_foldedSum (k n : Nat) : foldedSum (k * foldedSum n) = foldedSum (k * n) :=
  foldedSum_congr (Nat.ModEq.mul_left k (foldedSum_mod n))
    (by rw [Nat.mul_eq_zero, Nat.mul_eq_zero, foldedSum_eq_zero_iff])

/-- R80 (d): the carry out of one byte goes into the other, whichever of the two is the high one. -/
theorem byteSwap_ocAdd (s w : Word) : byteSwap (ocAdd s w) = ocAdd (byteSwap s) (byteSwap w) := by
  refine BitVec.eq_of_toNat_eq ?_
  calc (byteSwap (ocAdd s w)).toNat
    _ = foldedSum (256 * (s.toNat + w.toNat)) := by rw [byteSwap_toNat, ocAdd_toNat_eq_foldedSum, foldedSum_mul_foldedSum]
    _ = foldedSum (foldedSum (256 * s.toNat) + foldedSum (256 * w.toNat)) := by
      rw [foldedSum_foldedSum_add, Nat.add_comm (256 * s.toNat), foldedSum_foldedSum_add, ← Nat.mul_add,
        Nat.add_comm w.toNat]
    _ = (ocAdd (byteSwap s) (byteSwap w)).toNat := by rw [ocAdd_toNat_eq_foldedSum, byteSwap_toNat, byteSwap_toNat]

/-- Settles O22: swapping the bytes commutes with each addition of the fold. -/
theorem byteSwappedWordsSwapTheSum : Obligations.ByteSwappedWordsSwapTheSum := by
  intro ws
  change (ws.map byteSwap).foldl ocAdd (byteSwap 0) = byteSwap (ws.foldl ocAdd 0)
  rw [List.foldl_map]
  exact List.foldl_hom _ (fun s w => (byteSwap_ocAdd s w).symm)

end Sys2Proof.Machine
end

section
/-! PROOF. What a command can do, said once (`ran_of_exec`), and from it what every command and every access leaves alone
(spec/10_state.md R37, R39, R41; spec/70_reset_and_hazards.md R129, R132). -/

namespace Sys2Proof.Machine

/-! ### What a command can do -/

/-- The two commands that extract a field, with the field (R88, R89). -/
inductive Extracts : Instr → (Word → Bit) → Prop
  | extseq : Extracts .extseq flagsSeq
  | extack : Extracts .extack flagsAck

/-- The two commands that frame a packet, with its length and flags word (R83, R84). -/
inductive Frames (s : State) : Instr → Nat → Word → Prop
  | build {a q : Bit} (h : ¬ Config.maxPayload < lengthOf s.paylen) :
      Frames s (.build a q) (Config.hdrLen + lengthOf s.paylen)
        (mkFlags (BitVec.ofNat 14 (Config.hdrLen + lengthOf s.paylen)) a q)
  | buildack {q : Bit} : Frames s (.buildack q) Config.hdrLen (mkFlags (BitVec.ofNat 14 Config.hdrLen) 1 q)

/-- How each command ends: the rows of R37's table. -/
inductive Ran (s : State) : Instr → State → Prop
  | nop : Ran s .nop s
  | clrerr : Ran s .clrerr (setStatus (withSticky false (withErr errNone s.status)) s)
  | csum (b : Buf) : Ran s (.csum b) (complete (setCsum (checksum (packetBytes b s)) s))
  | tooLong {a q : Bit} (h : Config.maxPayload < lengthOf s.paylen) : Ran s (.build a q) (raiseError .tooLong s)
  | frames {i : Instr} {len : Nat} {f : Word} (h : Frames s i len f) : Ran s i (framePacket len f s)
  | verifyTrunc (h : packetLen .rx s < Config.hdrLen) :
      Ran s .verify (raiseError .trunc (setChecks (magicMatches s) (lenMatches s) (setRes 0x0000 s)))
  | verify (h : ¬ packetLen .rx s < Config.hdrLen) :
      Ran s .verify (complete (setChecks (magicMatches s) (lenMatches s) (setFlags (readWord .rx 10 s)
        (setCsum (packetChecksum (packetBytes .rx s)) (setRes (bitWord (boolBit (checksumMatches s))) s)))))
  | extractTrunc {i : Instr} {field : Word → Bit} (hi : Extracts i field) (h : packetLen .rx s < Config.hdrLen) :
      Ran s i (raiseError .trunc (setRes 0x0000 s))
  | extract {i : Instr} {field : Word → Bit} (hi : Extracts i field) (h : Config.hdrLen ≤ packetLen .rx s) :
      Ran s i (complete (setRes (bitWord (field (readWord .rx 10 s))) (setFlags (readWord .rx 10 s) s)))

theorem ran_extractBit {i : Instr} {field : Word → Bit} (hi : Extracts i field) (s : State) :
    Ran s i (extractBit field s) := by
  obtain ⟨h, e⟩ | ⟨h, e⟩ := extractBit_cases field s
  · rw [e]; exact .extractTrunc hi h
  · rw [e]; exact .extract hi h

theorem ran_of_exec {i : Instr} {s t : State} (h : exec i s = .next t) : Ran s i t := by
  cases i with
  | nop => cases h; exact .nop
  | csum b => cases h; exact .csum b
  | buildack q => cases h; exact .frames .buildack
  | extseq => cases h; exact ran_extractBit .extseq s
  | extack => cases h; exact ran_extractBit .extack s
  | clrerr => cases h; exact .clrerr
  | build a q =>
    by_cases hn : Config.maxPayload < lengthOf s.paylen
    · cases (execBuild_of_tooLong hn a q).symm.trans h; exact .tooLong hn
    · cases (execBuild_of_fits hn a q).symm.trans h; exact .frames (.build hn)
  | verify =>
    by_cases hn : packetLen .rx s < Config.hdrLen
    · cases (execVerify_of_trunc hn).symm.trans h; exact .verifyTrunc hn
    · cases (execVerify_of_header hn).symm.trans h; exact .verify hn

/-! ### Framing or reporting -/

/-- t is s with results reported in registers that no packet's length or bytes depend on. -/
def Reports (s t : State) : Prop := ∃ status flags csum res, t = { s with status, flags, csum, res }

/-- R37: a command that does not frame a packet writes its results into STATUS, FLAGS, CSUM and RES at most. -/
theorem reports_or_frames {i : Instr} {s t : State} (h : Ran s i t) :
    Reports s t ∨ ∃ len f, Frames s i len f ∧ t = framePacket len f s := by
  cases h with
  | frames h => exact .inr ⟨_, _, h, rfl⟩
  | nop | clrerr | csum | tooLong | verifyTrunc | verify | extractTrunc | extract => exact .inl ⟨_, _, _, _, rfl⟩

theorem raiseError_reports (c : ErrCode) (s : State) : Reports s (raiseError c s) := ⟨_, _, _, _, rfl⟩

/-- A packet is its length and the bytes below it. -/
theorem packetBytes_congr {b : Buf} {s t : State} (hlen : packetLen b t = packetLen b s)
    (h : ∀ k, readByte b k t = readByte b k s) : packetBytes b t = packetBytes b s := by
  rw [packetBytes, hlen]
  exact readBytes_congr fun k _ _ => h k

section Reports

variable {s t : State} (h : Reports s t)

include h

theorem Reports.readByte_eq (b : Buf) (k : Nat) : readByte b k t = readByte b k s := by
  obtain ⟨_, _, _, _, rfl⟩ := h
  cases b <;> rfl

theorem Reports.packetLen_eq (b : Buf) : packetLen b t = packetLen b s := by
  obtain ⟨_, _, _, _, rfl⟩ := h
  cases b <;> rfl

theorem Reports.packetBytes_eq (b : Buf) : packetBytes b t = packetBytes b s :=
  packetBytes_congr (h.packetLen_eq b) (h.readByte_eq b)

end Reports

/-! ### The frame of every command -/

theorem Reports.outsideKept {s t : State} (h : Reports s t) (hr : t.status &&& 0xFFC0 = s.status &&& 0xFFC0) :
    OutsideKept s t := by
  have bytes (a : Nat) (_ : 12 ≤ a) : readByte .tx a t = readByte .tx a s := h.readByte_eq .tx a
  obtain ⟨_, _, _, _, rfl⟩ := h
  exact ⟨rfl, rfl, rfl, bytes, hr, rfl, rfl, rfl, rfl⟩

theorem outsideKept_framePacket (len : Nat) (f : Word) (s : State) : OutsideKept s (framePacket len f s) where
  paylen := framePacket_paylen ..
  rxlen := framePacket_rxlen ..
  rx := framePacket_rx ..
  tx_payload a ha := readByte_framePacket_outside (.inr ha) len f s
  status_reserved := by simp
  magic := framePacket_magic ..
  epoch := framePacket_epoch ..
  inputs := framePacket_inputs ..
  replies := framePacket_replies ..

/-- R28: the reserved bits of STATUS are never written. -/
@[simp] theorem reserved_endStatus (e : Option ErrCode) (w : Word) : endStatus e w &&& 0xFFC0#16 = w &&& 0xFFC0#16 := by
  cases e <;> simp [endStatus]

@[simp] theorem reserved_commandStatus (i : Instr) (s : State) :
    commandStatus i s &&& 0xFFC0#16 = s.status &&& 0xFFC0#16 := by
  cases i <;> simp [commandStatus]

theorem outsideKept_of_exec {i : Instr} {s t : State} (h : exec i s = .next t) : OutsideKept s t := by
  obtain reports | ⟨len, f, -, rfl⟩ := reports_or_frames (ran_of_exec h)
  · exact reports.outsideKept (exec_status h ▸ reserved_commandStatus i s)
  · exact outsideKept_framePacket len f s

/-! ### The columns of R37's table -/

/-- R37, row by row: the columns a row does not name are kept. -/
theorem Ran.kept {i : Instr} {s t : State} (h : Ran s i t) (c : Column) (hc : c ∉ writtenColumns i s) : c.kept s t := by
  cases h with
  | nop => cases c <;> simp [Column.kept]
  | clrerr | csum b => cases c <;> simp [writtenColumns, Column.kept] at hc ⊢
  | tooLong h | verifyTrunc h | verify h => cases c <;> simp [writtenColumns, h, Column.kept] at hc ⊢
  | frames h =>
    have row : writtenColumns i s = [.err, .flags, .csum, .txlen, .txHeader] := by
      cases h with
      | build h => simp [writtenColumns, h]
      | buildack => rfl
    rw [row] at hc
    cases c <;> simp [Column.kept] at hc ⊢
  | extractTrunc hi h =>
    have row : writtenColumns i s = [.err, .sticky, .res] := by cases hi <;> simp [writtenColumns, h]
    rw [row] at hc
    cases c <;> simp [Column.kept] at hc ⊢
  | extract hi h =>
    have row : writtenColumns i s = [.err, .res, .flags] := by cases hi <;> simp [writtenColumns, Nat.not_lt.2 h]
    rw [row] at hc
    cases c <;> simp [Column.kept] at hc ⊢

/-- Settles O37: each row keeps its unnamed columns, and every command keeps what stands outside the table. -/
theorem commandsChangeOnlyTheirColumns : Obligations.CommandsChangeOnlyTheirColumns :=
  fun _ _ _ h => ⟨(ran_of_exec h).kept, outsideKept_of_exec h⟩

end Sys2Proof.Machine
end

section
/-! PROOF. What the whole machine keeps: MAGIC, the buffers, and the packet in TX (spec/10_state.md R39, R41;
spec/41_build.md R85; spec/70_reset_and_hazards.md R129, R132). -/

namespace Sys2Proof.Machine

theorem readByte_storeReg (b : Buf) (k : Nat) (r : Reg) (w : Word) (s : State) :
    readByte b k (storeReg r w s) = readByte b k s := by
  obtain ⟨_, _, _, e⟩ := storeReg_eq r w s
  rw [e]
  cases b <;> rfl

/-! ### MAGIC -/

theorem Served.magic_eq {x : HostAccess} {s t : State} (h : Served s x t) : t.magic = s.magic := by
  cases h with
  | command h => exact (outsideKept_of_exec h).magic
  | register _ w =>
    obtain ⟨_, _, _, e⟩ := storeReg_eq (Reg.ofIndex _) w s
    rw [e]
  | byte => exact writeByte_magic ..
  | reset | illegal | readReg | readByte => rfl

/-- Settles O46: no access writes MAGIC. -/
theorem magicIsConstant : Obligations.MagicIsConstant := by
  intro s t h
  obtain ⟨-, rfl⟩ | ⟨x, rest, -, served⟩ := step_cases h
  · rfl
  · exact served.magic_eq

/-! ### Buffer bytes -/

/-- The commands that frame a packet are BUILD and BUILDACK. -/
theorem Frames.isBuild {s : State} {i : Instr} {len : Nat} {f : Word} (h : Frames s i len f) :
    (∃ a q, i = .build a q) ∨ ∃ q, i = .buildack q := by
  cases h with
  | build => exact .inl ⟨_, _, rfl⟩
  | buildack => exact .inr ⟨_, rfl⟩

/-- A command that changes a buffer byte frames a packet, and the byte is in its header. -/
theorem frames_of_readByte_ne {i : Instr} {s t : State} {b : Buf} {k : Nat} (h : Ran s i t)
    (hne : readByte b k t ≠ readByte b k s) : (b = .tx ∧ k < 12) ∧ ∃ len f, Frames s i len f := by
  obtain reports | ⟨len, f, frames, rfl⟩ := reports_or_frames h
  · exact absurd (reports.readByte_eq b k) hne
  · refine ⟨?_, len, f, frames⟩
    by_contra outside
    exact hne (readByte_framePacket_outside (by simpa [imp_iff_not_or] using outside) len f s)

/-- Settles O38, by the access served: besides reset and a write of that byte, only a packet framed changes a byte. -/
theorem buffersChangeOnlyByHostWritesAndBuilds : Obligations.BuffersChangeOnlyByHostWritesAndBuilds := by
  intro s t x rest b k hx h hne
  have served := served_of_perform ((step_of_inputs hx).symm.trans h)
  rw [← readByte_withInputs b k rest s] at hne
  cases served with
  | reset => exact .inl rfl
  | command h =>
    obtain ⟨⟨hb, hk⟩, _, _, frames⟩ := frames_of_readByte_ne (ran_of_exec h) hne
    exact .inr (.inr ⟨hb, hk, _, rfl, frames.isBuild⟩)
  | byte c a v =>
    have same : ¬ (b ≠ c ∨ k ≠ a.toNat) := fun other => hne (readByte_writeByte_other other v _)
    obtain ⟨rfl, rfl⟩ : b = c ∧ k = a.toNat := by simpa [not_or] using same
    exact .inr (.inl ⟨a, v, rfl, rfl⟩)
  | illegal => exact absurd ((raiseError_reports ..).readByte_eq b k) hne
  | register => exact absurd (readByte_storeReg ..) hne
  | readReg | readByte => exact absurd (readByte_reply ..) hne

/-! ### The packet in TX -/

theorem txlen_storeReg {i : RegIndex} (hi : i ≠ 3) (w : Word) (s : State) :
    (storeReg (Reg.ofIndex i) w s).txlen = s.txlen := by
  have other : Reg.ofIndex i ≠ .txlen := by decide +revert
  generalize Reg.ofIndex i = r at other
  cases r with
  | txlen => exact absurd rfl other
  | cmd | status | paylen | rxlen | flags | csum | res | reserved => rfl

/-- Settles O39, by the access: a command that does not frame a packet reports only, and no other access but those excluded
touches TX or TXLEN. -/
theorem builtPacketSurvivesOtherAccesses : Obligations.BuiltPacketSurvivesOtherAccesses := by
  intro x s t h hreset hbuf hreg hbuild hbuildack
  cases served_of_perform h with
  | reset => exact absurd rfl hreset
  | @command i t h =>
    obtain reports | ⟨_, _, frames, -⟩ := reports_or_frames (ran_of_exec h)
    · exact reports.packetBytes_eq .tx
    · obtain ⟨a, q, rfl⟩ | ⟨q, rfl⟩ := frames.isBuild
      · exact absurd (decode_encode _) (hbuild _ a q rfl)
      · exact absurd (decode_encode _) (hbuildack _ q rfl)
  | illegal => exact (raiseError_reports ..).packetBytes_eq .tx
  | @register i hi w =>
    have hlen : packetLen .tx (storeReg (Reg.ofIndex i) w s) = packetLen .tx s := by
      rw [packetLen, packetLen, txlen_storeReg fun h3 => hreg w (h3 ▸ rfl)]
    exact packetBytes_congr hlen fun k => readByte_storeReg ..
  | byte b a v =>
    cases b with
    | tx => exact absurd rfl (hbuf a v)
    | rx => exact packetBytes_congr rfl fun k => readByte_writeByte_other (.inl (by decide)) ..
  | readReg | readByte => rfl

end Sys2Proof.Machine
end

section
/-! PROOF. The sound state: it holds after reset, and every access keeps it (spec/10_state.md R24 to R34, R39). -/

namespace Sys2Proof.Machine

/-! ### STATUS -/

/-- What State.Inv says of STATUS (R24, R25, R28). -/
structure StatusSound (w : Word) : Prop where
  reserved : w &&& 0xFFC0 = 0
  err_legal : (statusErr w).toNat ≤ 3
  err_sticky : statusErr w ≠ errNone → statusSticky w = true

theorem statusSound_zero : StatusSound 0 where
  reserved := by decide
  err_legal := by decide
  err_sticky := by decide

theorem outcomeErr_le (e : Option ErrCode) : (outcomeErr e).toNat ≤ 3 := by
  cases e with
  | none => decide
  | some c => exact c.bits_le

/-- A command that ends leaves a legal code in ERR, and STICKY with every code but NONE. -/
theorem statusSound_endStatus (e : Option ErrCode) {w : Word} (hw : w &&& 0xFFC0 = 0) : StatusSound (endStatus e w) where
  reserved := (reserved_endStatus e w).trans hw
  err_legal := by rw [statusErr_endStatus]; exact outcomeErr_le e
  err_sticky h := by
    rw [statusErr_endStatus] at h
    rw [statusSticky_endStatus, (outcomeErr_ne_zero_iff e).1 h, Bool.or_true]

theorem StatusSound.commandStatus {s : State} (h : StatusSound s.status) (i : Instr) : StatusSound (commandStatus i s) := by
  cases i with
  | nop => exact h
  | clrerr => exact ⟨(reserved_commandStatus .clrerr s).trans h.reserved, by simp [Machine.commandStatus, errNone],
      by simp [Machine.commandStatus]⟩
  | verify => exact statusSound_endStatus _ (by simpa using h.reserved)
  | csum | buildack => exact statusSound_endStatus none h.reserved
  | build | extseq | extack => exact statusSound_endStatus _ h.reserved

theorem StatusSound.wordStatus {s : State} (h : StatusSound s.status) (w : Word) : StatusSound (wordStatus w s) := by
  cases hd : decode w with
  | ok i => rw [wordStatus_of_decode hd]; exact h.commandStatus i
  | error r => rw [wordStatus_of_illegal hd]; exact statusSound_endStatus _ h.reserved

theorem StatusSound.perform {x : HostAccess} {s t : State} (hs : StatusSound s.status) (h : perform x s = .next t) :
    StatusSound t.status := by
  obtain ⟨-, e⟩ | ⟨w, -, e⟩ | ⟨-, e⟩ := perform_status_cases h <;> rw [e]
  · exact statusSound_zero
  · exact hs.wordStatus w
  · exact hs

/-! ### Buffers, lengths and RES -/

/-- What State.Inv says of the rest: canonical buffers, and lengths and RES within their defined bits (R29 to R31, R34, R39). -/
structure StorageSound (s : State) : Prop where
  tx_wf : s.tx.wf
  rx_wf : s.rx.wf
  paylen_high : s.paylen &&& 0xC000 = 0
  txlen_high : s.txlen &&& 0xC000 = 0
  rxlen_high : s.rxlen &&& 0xC000 = 0
  res_high : s.res &&& 0xFFFE = 0

theorem inv_iff (s : State) : s.Inv ↔ StatusSound s.status ∧ StorageSound s :=
  ⟨fun h => ⟨⟨h.status_reserved, h.err_legal, h.err_sticky⟩,
      ⟨h.tx_wf, h.rx_wf, h.paylen_high, h.txlen_high, h.rxlen_high, h.res_high⟩⟩,
    fun ⟨hs, h⟩ => ⟨h.tx_wf, h.rx_wf, hs.reserved, hs.err_legal, hs.err_sticky, h.paylen_high, h.txlen_high, h.rxlen_high,
      h.res_high⟩⟩

theorem storageSound_reset : StorageSound State.reset :=
  ⟨Memory.wf_nil, Memory.wf_nil, by decide, by decide, by decide, by decide⟩

theorem masked_high (w : Word) : w &&& 0x3FFF &&& 0xC000 = 0 := by
  rw [BitVec.and_assoc]
  exact BitVec.and_zero

theorem lengthWord_high (n : Nat) : lengthWord n &&& 0xC000 = 0 := by
  refine BitVec.eq_of_getLsbD_eq fun k hk => ?_
  rw [lengthWord]
  interval_cases k <;> simp

theorem bitWord_high (b : Bit) : bitWord b &&& 0xFFFE = 0 := by
  decide +revert

/-- RES is kept, or a single bit is written to it (R34). -/
theorem Ran.res_eq {i : Instr} {s t : State} (h : Ran s i t) : t.res = s.res ∨ ∃ b, t.res = bitWord b := by
  cases h with
  | nop | clrerr | csum | tooLong => exact .inl rfl
  | frames => exact .inl (framePacket_res ..)
  | verifyTrunc | extractTrunc => exact .inr ⟨0, rfl⟩
  | verify | extract => exact .inr ⟨_, rfl⟩

section StorageSound

variable {s : State} (hs : StorageSound s)

include hs

theorem StorageSound.framePacket (len : Nat) (f : Word) : StorageSound (framePacket len f s) where
  tx_wf := framePacket_wf hs.tx_wf hs.rx_wf len f
  rx_wf := by rw [framePacket_rx]; exact hs.rx_wf
  paylen_high := by rw [framePacket_paylen]; exact hs.paylen_high
  txlen_high := by rw [framePacket_txlen]; exact lengthWord_high len
  rxlen_high := by rw [framePacket_rxlen]; exact hs.rxlen_high
  res_high := by rw [framePacket_res]; exact hs.res_high

theorem StorageSound.ran {i : Instr} {t : State} (h : Ran s i t) : StorageSound t := by
  have res_high : t.res &&& 0xFFFE = 0 := by
    obtain e | ⟨b, e⟩ := h.res_eq <;> rw [e]
    · exact hs.res_high
    · exact bitWord_high b
  obtain ⟨_, _, _, _, rfl⟩ | ⟨len, f, -, rfl⟩ := reports_or_frames h
  · exact { hs with res_high }
  · exact hs.framePacket len f

theorem StorageSound.storeReg (r : Reg) (w : Word) : StorageSound (storeReg r w s) := by
  cases r with
  | paylen => exact { hs with paylen_high := masked_high w }
  | txlen => exact { hs with txlen_high := masked_high w }
  | rxlen => exact { hs with rxlen_high := masked_high w }
  | cmd | status | flags | csum | res | reserved => exact hs

theorem StorageSound.writeByte (b : Buf) (a : BufAddr) (v : Byte) : StorageSound (writeByte b a.toNat v s) := by
  obtain ⟨tx_wf, rx_wf⟩ := writeByte_wf hs.tx_wf hs.rx_wf b a.isLt v
  refine ⟨tx_wf, rx_wf, ?_, ?_, ?_, ?_⟩
  · rw [writeByte_paylen]; exact hs.paylen_high
  · rw [writeByte_txlen]; exact hs.txlen_high
  · rw [writeByte_rxlen]; exact hs.rxlen_high
  · rw [writeByte_res]; exact hs.res_high

theorem StorageSound.served {x : HostAccess} {t : State} (h : Served s x t) : StorageSound t := by
  cases h with
  | reset => exact { storageSound_reset with }
  | command h => exact hs.ran (ran_of_exec h)
  | register _ w => exact hs.storeReg _ w
  | byte b a v => exact hs.writeByte b a v
  | illegal | readReg | readByte => exact { hs with }

end StorageSound

/-! ### The statements -/

/-- Settles O44: after reset every register is 0 and no byte is written. -/
theorem soundStateAtReset : Obligations.SoundStateAtReset :=
  (inv_iff _).2 ⟨statusSound_zero, storageSound_reset⟩

/-- Every access keeps the sound state. -/
theorem inv_of_perform {x : HostAccess} {s t : State} (hs : s.Inv) (h : perform x s = .next t) : t.Inv := by
  obtain ⟨status, storage⟩ := (inv_iff s).1 hs
  exact (inv_iff t).2 ⟨status.perform h, storage.served (served_of_perform h)⟩

/-- Settles O45: a step holds the state or serves an access, and taking the access off the queue leaves a sound state sound. -/
theorem everyStepKeepsTheSoundState : Obligations.EveryStepKeepsTheSoundState := by
  intro s t hs h
  cases hx : s.inputs with
  | nil => cases (step_of_no_inputs hx).symm.trans h; exact hs
  | cons x rest =>
    have hs' : (withInputs rest s).Inv := { hs with }
    exact inv_of_perform hs' ((step_of_inputs hx).symm.trans h)

end Sys2Proof.Machine
end

section
/-! PROOF. What commands depend on: the bytes of the packets alone (spec/20_memory.md R46), for a build not even the old header
(spec/41_build.md R83), so that a write repeated finds the same and does the same (spec/20_memory.md R51). -/

namespace Sys2Proof.Machine

/-! ### Building over another header -/

section SamePayload

variable {len : Nat} {f : Word} {s s' : State} (hmagic : s.magic = s'.magic)
  (payload : ∀ k, 12 ≤ k → k < len → readByte .tx k s = readByte .tx k s')

include hmagic payload

theorem readByte_writeHeader_congr {k : Nat} (hk : k < len) :
    readByte .tx k (writeHeader f s) = readByte .tx k (writeHeader f s') := by
  by_cases h : k < 12
  · simp only [readByte_writeHeader_inside f _ k h, hmagic]
  · rw [readByte_writeHeader_outside (.inr (Nat.le_of_not_lt h)), readByte_writeHeader_outside (.inr (Nat.le_of_not_lt h))]
    exact payload k (Nat.le_of_not_lt h) hk

theorem framePacket_csum_congr : (framePacket len f s).csum = (framePacket len f s').csum := by
  rw [framePacket_csum_framed, framePacket_csum_framed]
  exact congrArg checksum (readBytes_congr fun k _ hk => readByte_writeHeader_congr hmagic payload (by omega))

theorem readByte_framePacket_congr {k : Nat} (hk : k < len) :
    readByte .tx k (framePacket len f s) = readByte .tx k (framePacket len f s') := by
  rw [readByte_framePacket, readByte_framePacket, framePacket_csum_congr hmagic payload]
  by_cases h : k = 8 ∨ k = 9
  · obtain rfl | rfl := h
    · rw [readByte_fillChecksum_8, readByte_fillChecksum_8]
    · rw [readByte_fillChecksum_9, readByte_fillChecksum_9]
  · rw [readByte_fillChecksum_outside (.inr (not_or.1 h)), readByte_fillChecksum_outside (.inr (not_or.1 h))]
    exact readByte_writeHeader_congr hmagic payload hk

theorem packetBytes_framePacket_congr (hmax : len ≤ Config.maxPktLen) :
    packetBytes .tx (framePacket len f s) = packetBytes .tx (framePacket len f s') := by
  rw [packetBytes, packetBytes, packetLen_framePacket hmax, packetLen_framePacket hmax]
  exact readBytes_congr fun k _ hk => readByte_framePacket_congr hmagic payload (by omega)

end SamePayload

/-- Settles O42: the header is written whole before the checksum is taken, so the packet built is a function of MAGIC, the
payload, its length and the flags. -/
theorem buildIgnoresTheOldHeader : Obligations.BuildIgnoresTheOldHeader := by
  intro a q s s' t t' hlen hmagic fits payload h h'
  rw [← lengthOf_eq_mod] at fits
  cases (execBuild_of_fits (Nat.not_lt.2 fits) a q).symm.trans h
  cases (execBuild_of_fits (Nat.not_lt.2 (hlen ▸ fits)) a q).symm.trans h'
  rw [← hlen]
  have hmax : Config.hdrLen + lengthOf s.paylen ≤ Config.maxPktLen := Nat.add_le_add_left fits 12
  have payload' (k : Nat) (hk : 12 ≤ k) (_ : k < Config.hdrLen + lengthOf s.paylen) := payload k hk
  refine ⟨packetBytes_framePacket_congr hmagic payload' hmax, ?_, ?_, framePacket_csum_congr hmagic payload'⟩
  · rw [framePacket_txlen, framePacket_txlen]
  · rw [framePacket_flags, framePacket_flags]

/-- Settles O43: with no payload BUILD frames the same length and flags word as BUILDACK. -/
theorem emptyAckBuildIsBuildack : Obligations.EmptyAckBuildIsBuildack := by
  intro q s h
  rw [← lengthOf_eq_mod] at h
  have fits : ¬ Config.maxPayload < lengthOf s.paylen := by rw [h]; decide
  exact (execBuild_of_fits fits 1 q).trans (by rw [h]; rfl)

/-! ### Bytes beyond the packets -/

section SamePacket

variable {s s' : State} (packet : packetBytes .rx s' = packetBytes .rx s) (hmagic : s'.magic = s.magic)

include packet

theorem lenMatches_congr : lenMatches s' = lenMatches s := by
  refine decide_eq_decide.2 ?_
  rw [packetLen_of_packetBytes_eq packet]
  refine and_congr_right fun whole => ?_
  rw [readWord_of_packetBytes_eq packet (Nat.lt_of_lt_of_le (by decide) whole)]

theorem checksumMatches_congr (whole : Config.hdrLen ≤ packetLen .rx s) : checksumMatches s' = checksumMatches s := by
  rw [checksumMatches, checksumMatches, packet,
    readWord_of_packetBytes_eq packet (Nat.lt_of_lt_of_le (by decide) whole)]

include hmagic

theorem magicMatches_congr : magicMatches s' = magicMatches s := by
  refine decide_eq_decide.2 ?_
  rw [packetLen_of_packetBytes_eq packet, hmagic]
  refine and_congr_right fun whole => ?_
  have tag : readBytes .rx 0 8 s' = readBytes .rx 0 8 s := readBytes_congr fun k _ hk =>
    readByte_of_packetBytes_eq packet (Nat.lt_of_lt_of_le hk (Nat.le_trans (by decide) whole))
  rw [tag]

end SamePacket

/-- s with other bytes in its buffers. -/
def withBuffers (tx rx : Memory) (s : State) : State := { s with tx, rx }

/-- Two states that differ in their buffers alone are one state with two pairs of buffers. -/
theorem exists_eq_withBuffers {s s' : State} (h : { s' with tx := s.tx, rx := s.rx } = s) :
    ∃ tx rx, s' = withBuffers tx rx s :=
  ⟨s'.tx, s'.rx, by rw [← h]; rfl⟩

theorem packetLen_withBuffers (b : Buf) (tx rx : Memory) (s : State) : packetLen b (withBuffers tx rx s) = packetLen b s := by
  cases b <;> rfl

section Extracts

variable {i : Instr} {field : Word → Bit} (hi : Extracts i field) {s : State}

include hi

theorem exec_of_extracts : exec i s = .next (extractBit field s) := by
  cases hi <;> rfl

theorem exec_of_extracts_of_trunc (h : packetLen .rx s < Config.hdrLen) :
    exec i s = .next (raiseError .trunc (setRes 0x0000 s)) :=
  (exec_of_extracts hi).trans (congrArg Host.Outcome.next (if_pos h))

theorem exec_of_extracts_of_header (h : Config.hdrLen ≤ packetLen .rx s) :
    exec i s = .next (complete (setRes (bitWord (field (readWord .rx 10 s))) (setFlags (readWord .rx 10 s) s))) :=
  (exec_of_extracts hi).trans (congrArg Host.Outcome.next (if_neg (Nat.not_lt.2 h)))

end Extracts

/-- R46: a command that does not frame a packet finds the same in buffers that hold the same packets, and leaves them. -/
theorem Ran.exec_withBuffers {i : Instr} {s t : State} {tx rx : Memory} (ran : Ran s i t)
    (packet : ∀ b, packetBytes b (withBuffers tx rx s) = packetBytes b s) (hi : ∀ len f, ¬ Frames s i len f) :
    exec i (withBuffers tx rx s) = .next (withBuffers tx rx t) := by
  have hlen := packetLen_withBuffers .rx tx rx s
  cases ran with
  | nop | clrerr => rfl
  | csum b => rw [execCsum_eq, packet b]; rfl
  | tooLong h => exact execBuild_of_tooLong (s := withBuffers tx rx s) h ..
  | frames h => exact absurd h (hi _ _)
  | verifyTrunc h =>
    refine (execVerify_of_trunc (hlen.trans_lt h)).trans ?_
    rw [magicMatches_congr (packet .rx) rfl, lenMatches_congr (packet .rx)]; rfl
  | verify h =>
    have whole := Nat.le_of_not_lt h
    refine (execVerify_of_header (hlen.symm ▸ h)).trans ?_
    rw [magicMatches_congr (packet .rx) rfl, lenMatches_congr (packet .rx), checksumMatches_congr (packet .rx) whole,
      packet .rx, readWord_of_packetBytes_eq (packet .rx) (Nat.lt_of_lt_of_le (by decide) whole)]; rfl
  | extractTrunc hi h => exact exec_of_extracts_of_trunc hi (hlen.trans_lt h)
  | extract hi h =>
    refine (exec_of_extracts_of_header hi (h.trans_eq hlen.symm)).trans ?_
    rw [readWord_of_packetBytes_eq (packet .rx) (Nat.lt_of_lt_of_le (by decide) h)]; rfl

/-- Settles O41: bytes equal below the packets' lengths make equal packets, and no other command frames one. -/
theorem bytesBeyondThePacketAreNeverRead : Obligations.BytesBeyondThePacketAreNeverRead := by
  intro i s s' t t' hbuild hbuildack regs tx_bytes rx_bytes h h'
  obtain ⟨tx, rx, rfl⟩ := exists_eq_withBuffers regs
  have packet (b : Buf) : packetBytes b (withBuffers tx rx s) = packetBytes b s := by
    rw [packetBytes, packetLen_withBuffers]
    cases b with
    | tx => exact readBytes_congr fun k _ hk => tx_bytes k (by omega)
    | rx => exact readBytes_congr fun k _ hk => rx_bytes k (by omega)
  have hi (len : Nat) (f : Word) (frames : Frames s i len f) : False := by
    obtain ⟨a, q, rfl⟩ | ⟨q, rfl⟩ := frames.isBuild
    · exact hbuild a q rfl
    · exact hbuildack q rfl
  cases ((ran_of_exec h).exec_withBuffers packet hi).symm.trans h'
  rfl

/-! ### A command repeated -/

theorem exec_of_frames {s : State} {i : Instr} {len : Nat} {f : Word} (h : Frames s i len f) :
    exec i s = .next (framePacket len f s) := by
  cases h with
  | build h => exact execBuild_of_fits h ..
  | buildack => rfl

section Frames

variable {s : State} {i : Instr} {len : Nat} {f : Word} (h : Frames s i len f)

include h

theorem Frames.hdrLen_le : Config.hdrLen ≤ len := by
  cases h with
  | build => exact Nat.le_add_right ..
  | buildack => exact le_rfl

/-- What is framed depends on PAYLEN alone. -/
theorem Frames.of_paylen_eq {t : State} (hp : t.paylen = s.paylen) : Frames t i len f := by
  cases h with
  | build h => rw [← hp] at h ⊢; exact .build h
  | buildack => exact .buildack

end Frames

@[simp] theorem withErr_withErr (c d : ErrBits) (w : Word) : withErr c (withErr d w) = withErr c w :=
  status_ext (by simp) (by simp) (by simp) (by simp) (by simp)

theorem endStatus_endStatus (e : Option ErrCode) (w : Word) : endStatus e (endStatus e w) = endStatus e w :=
  status_ext (by simp) (by simp) (by simp) (by simp) (by simp)

theorem clearedStatus_clearedStatus (w : Word) :
    withSticky false (withErr errNone (withSticky false (withErr errNone w))) = withSticky false (withErr errNone w) :=
  status_ext (by simp) (by simp) (by simp) (by simp) (by simp)

/-- Framing again what was framed writes every byte as it stands, and canonical buffers with the same bytes are the same. -/
theorem framePacket_framePacket {s : State} (ht : s.tx.wf) (hr : s.rx.wf) {len : Nat} (hmin : Config.hdrLen ≤ len) (f : Word) :
    framePacket len f (framePacket len f s) = framePacket len f s := by
  have payload (k : Nat) (hk : 12 ≤ k) (_ : k < len) := readByte_framePacket_outside (.inr hk) len f s (b := .tx)
  have hmagic := framePacket_magic len f s
  have tx_wf := framePacket_wf ht hr len f
  refine State.ext ?status ?paylen ?txlen ?rxlen ?flags (framePacket_csum_congr hmagic payload) ?res ?tx ?rx ?magic ?epoch
    ?inputs ?replies
  case tx =>
    refine Memory.ext_of_wf (framePacket_wf tx_wf (by rwa [framePacket_rx]) len f) tx_wf fun k => ?_
    rw [framePacket_lookup]
    split
    · rename_i hk
      rw [readByte_framePacket_congr hmagic payload (Nat.lt_of_lt_of_le hk hmin), framePacket_lookup, if_pos hk]
    · rfl
  all_goals simp

theorem next_setStatus_congr {v w : Word} (h : v = w) (s : State) :
    (.next (setStatus v s) : Host.Outcome State Fault Refusal) = .next (setStatus w s) := by rw [h]

theorem raiseError_raiseError (c : ErrCode) (s : State) : raiseError c (raiseError c s) = raiseError c s :=
  congrArg (setStatus · s) (endStatus_endStatus (some c) s.status)

/-- R51: a command repeated finds what it found before, and writes what stands there already. -/
theorem exec_idempotent {i : Instr} {s t : State} (ht : s.tx.wf) (hr : s.rx.wf) (h : exec i s = .next t) :
    exec i t = .next t := by
  cases ran_of_exec h with
  | nop => rfl
  | clrerr => exact next_setStatus_congr (clearedStatus_clearedStatus s.status) s
  | csum b =>
    have packet : packetBytes b (complete (setCsum (checksum (packetBytes b s)) s)) = packetBytes b s := by cases b <;> rfl
    rw [execCsum_eq, packet]
    exact next_setStatus_congr (withErr_withErr errNone errNone s.status) (setCsum _ s)
  | tooLong long =>
    exact Eq.trans (execBuild_of_tooLong (s := raiseError .tooLong s) long ..)
      (congrArg Host.Outcome.next (raiseError_raiseError ..))
  | frames frames =>
    rw [exec_of_frames (frames.of_paylen_eq (framePacket_paylen ..)), framePacket_framePacket ht hr frames.hdrLen_le]
  | verifyTrunc | verify => exact execVerify_idempotent h
  | extractTrunc hi short =>
    exact Eq.trans (exec_of_extracts_of_trunc hi short)
      (congrArg Host.Outcome.next (raiseError_raiseError .trunc (setRes 0x0000 s)))
  | extract hi whole =>
    exact Eq.trans (exec_of_extracts_of_header hi whole)
      (next_setStatus_congr (withErr_withErr errNone errNone s.status) (setRes _ (setFlags _ s)))

/-! ### A write repeated -/

theorem Memory.insert_insert (m : Memory) (a : Nat) (v w : Byte) : (m.insert a v).insert a w = m.insert a w := by
  induction m with
  | nil => simp [Memory.insert]
  | cons c m ih =>
    rcases Nat.lt_trichotomy a c.1 with lt | eq | gt
    · simp [Memory.insert, lt]
    · simp [Memory.insert, eq]
    · simp [Memory.insert, Nat.not_lt_of_gt gt, Nat.ne_of_gt gt, ih]

theorem writeByte_writeByte (b : Buf) (a : Nat) (v : Byte) (s : State) :
    writeByte b a v (writeByte b a v s) = writeByte b a v s := by
  rw [writeByte, writeByte, bufOf_setBuf_same, Memory.insert_insert]
  cases b <;> rfl

theorem storeReg_storeReg (r : Reg) (w : Word) (s : State) : storeReg r w (storeReg r w s) = storeReg r w s := by
  cases r <;> rfl

/-- Settles O47, by what the write does: a command, an illegal word, a register or a byte. -/
theorem hostWritesAreIdempotent : Obligations.HostWritesAreIdempotent := by
  refine ⟨fun i w s t hs h => ?_, fun b a v s t _ h => ?_⟩
  · cases served_of_perform h with
    | command h => rw [perform_encode]; exact exec_idempotent hs.tx_wf hs.rx_wf h
    | illegal hd => rw [perform_commandWord_of_illegal hd, raiseError_raiseError]
    | register hi => rw [perform_writeReg_of_ne_zero hi, storeReg_storeReg]
  · cases h
    exact congrArg Host.Outcome.next (writeByte_writeByte b a.toNat v s)

end Sys2Proof.Machine
end

section
/-! PROOF. What an engine reads of a datagram through the block: VERIFY, EXTACK and EXTSEQ report on the datagram in RX and leave
the packet in TX (spec/42_verify_extract.md R87 to R92, spec/60_exceptions.md R112, R116, R117). -/

namespace Sys2Proof.Machine

/-! ### Commands as an engine issues them -/

theorem performAll_command (i : Instr) (s : State) : performAll [command i] s = exec i s := by
  obtain ⟨t, ht⟩ := exists_exec_eq_next i s
  have hp : perform (command i) s = .next t := (perform_encode i s).trans ht
  rw [performAll, hp, ht]; rfl

theorem performAll_loadrx_command {d : Datagram} (hd : d.length ≤ Config.maxPktLen) (i : Instr) (s : State) :
    performAll (loadrx d ++ [command i]) s = exec i (presented d s) := by
  rw [performAll_append _ _ _ _ (performAll_loadrx d s hd), performAll_command]

/-! ### A datagram in RX -/

/-- b holds the datagram d in RX, and the packet in TX and MAGIC of s. -/
structure Holding (d : Datagram) (s b : State) : Prop where
  rx : packetBytes .rx b = d
  tx : packetBytes .tx b = packetBytes .tx s
  magic : b.magic = s.magic

theorem presentable_iff (d : Datagram) : presentable d = true ↔ d.length ≤ Config.maxPktLen := by
  simp [presentable]

theorem holding_presented {d : Datagram} (hd : d.length ≤ Config.maxPktLen) (s : State) : Holding d s (presented d s) :=
  ⟨presented_packet d s hd, packetBytes_tx_presented d s, presented_magic d s⟩

/-- A command that does not frame a packet keeps both packets and MAGIC. -/
theorem Holding.exec {d : Datagram} {s b c : State} (hb : Holding d s b) {i : Instr} (h : exec i b = .next c)
    (hi : ∀ len f, ¬ Frames b i len f) : Holding d s c := by
  obtain reports | ⟨len, f, frames, -⟩ := reports_or_frames (ran_of_exec h)
  · exact ⟨(reports.packetBytes_eq .rx).trans hb.rx, (reports.packetBytes_eq .tx).trans hb.tx,
      (outsideKept_of_exec h).magic.trans hb.magic⟩
  · exact absurd frames (hi len f)

theorem readByte_eq_getD {b : Buf} {s : State} {k : Nat} (hk : k < packetLen b s) :
    readByte b k s = (packetBytes b s).getD k 0 := by
  rw [List.getD_eq_getElem _ _ (by rwa [packetBytes_length])]
  simp only [packetBytes, readBytes_getElem, Nat.zero_add]

/-- A datagram as long as a header whose checksum field holds its packet checksum (R112, R116). -/
def validDatagram (d : Datagram) : Prop := 12 ≤ d.length ∧ packetChecksum d = (d.getD 8 0 ++ d.getD 9 0 : Word)

section Holding

variable {d : Datagram} {s b : State} (hb : Holding d s b)

include hb

theorem Holding.packetLen_eq : packetLen .rx b = d.length := by
  rw [← packetBytes_length, hb.rx]

theorem Holding.readByte_eq {k : Nat} (hk : k < d.length) : readByte .rx k b = d.getD k 0 := by
  rw [readByte_eq_getD (hb.packetLen_eq.symm ▸ hk), hb.rx]

theorem Holding.readWord_eq {k : Nat} (hk : k + 1 < d.length) : readWord .rx k b = beWord (d.getD k 0) (d.getD (k + 1) 0) := by
  rw [readWord, hb.readByte_eq (by omega), hb.readByte_eq hk]

theorem Holding.holdsChecksum_iff : holdsChecksum .rx b ↔ validDatagram d := by
  rw [holdsChecksum, hb.packetLen_eq, hb.rx]
  refine and_congr_right fun whole => ?_
  rw [hb.readWord_eq (Nat.lt_of_lt_of_le (by decide) whole)]; rfl

end Holding

/-! ### What RES answers -/

/-- VERIFY answers 1 for a packet that holds its checksum, and 0 for every other (R87, R91). -/
theorem readRes_verify_cases {s t : State} (h : exec .verify s = .next t) :
    (holdsChecksum .rx s ∧ readRes t = 1) ∨ (¬ holdsChecksum .rx s ∧ readRes t = 0) := by
  by_cases short : packetLen .rx s < Config.hdrLen
  · obtain ⟨_, e, res, -⟩ := execVerify_spec_of_trunc short
    cases e.symm.trans h
    exact .inr ⟨fun valid => Nat.not_le.2 short valid.1, readRes_of_bit (b := 0) res⟩
  · have whole := Nat.le_of_not_lt short
    obtain ⟨_, e, csum, -, res, -⟩ := execVerify_spec whole
    cases e.symm.trans h
    rw [csum] at res
    split at res
    · exact .inl ⟨⟨whole, ‹_›⟩, readRes_of_bit (b := 1) res⟩
    · exact .inr ⟨fun valid => absurd valid.2 ‹_›, readRes_of_bit (b := 0) res⟩

section Holding

variable {d : Datagram} {s b : State} (hb : Holding d s b) (whole : 12 ≤ d.length)

include hb whole

theorem Holding.readRes_extractBit (field : Word → Bit) :
    readRes (extractBit field b) = bitWord (field (beWord (d.getD 10 0) (d.getD 11 0))) := by
  rw [readRes_of_bit (extractBit_res (hb.packetLen_eq.symm ▸ whole) field),
    hb.readWord_eq (Nat.lt_of_lt_of_le (by decide) whole)]

/-- seq_bit, as EXTSEQ answers it (R88). -/
theorem Holding.readRes_extseq_eq_iff (q : Bit) :
    readRes (extractBit flagsSeq b) = bitWord q ↔ (d.getD 11 0).toNat % 2 = q.toNat := by
  rw [hb.readRes_extractBit whole, BitVec.toNat_eq, bitWord_flagsSeq_beWord, bitWord_toNat]

/-- ack_bit, as EXTACK answers it (R89). -/
theorem Holding.readRes_extack_eq_one_iff :
    readRes (extractBit flagsAck b) = 1 ↔ (d.getD 11 0).toNat / 2 % 2 = 1 := by
  rw [hb.readRes_extractBit whole, BitVec.toNat_eq, bitWord_flagsAck_beWord]; rfl

end Holding

end Sys2Proof.Machine
end

section
/-! PROOF. The reference sender: what it makes of a response, and what a send transmits and leaves (spec/60_exceptions.md R110 to
R113, R121). -/

namespace Sys2Proof.Machine

/-! ### Judging a response -/

/-- A presentable response is read by VERIFY, EXTACK and EXTSEQ in this order, and accepted by what they answer; every block the
sender may end with holds the response and its own packet. -/
theorem judge_of_presentable (p : HostParams) {d : Datagram} (hd : d.length ≤ Config.maxPktLen) (e : Sender) :
    ∃ b₁, exec .verify (presented d e.block) = .next b₁ ∧ Holding d e.block b₁ ∧
      let b₂ := extractBit flagsAck b₁
      let b₃ := extractBit flagsSeq b₂
      Holding d e.block b₂ ∧ Holding d e.block b₃ ∧
      e.judge p d =
        if p.discardMalformed && malformed b₁ then .next (.ignore, { e with block := b₁ })
        else if accepted (readRes b₁) (readRes b₂) (readRes b₃) e.seqBit then
          .next (.accept, { e with block := b₃, seqBit := 1 - e.seqBit, acknowledged := true, inFlight := none })
        else .next (.retry, { e with block := b₃ }) := by
  obtain ⟨b₁, h₁⟩ := exists_exec_eq_next .verify (presented d e.block)
  have hb₁ := (holding_presented hd e.block).exec h₁ nofun
  have hb₂ := hb₁.exec (i := .extack) rfl nofun
  have hb₃ := hb₂.exec (i := .extseq) rfl nofun
  refine ⟨b₁, h₁, hb₁, hb₂, hb₃, ?_⟩
  rw [Sender.judge, if_pos ((presentable_iff d).2 hd), performAll_loadrx_command hd, h₁, andThen_next, performAll_command]
  exact if_congr Iff.rfl rfl rfl

/-- What a judgement leaves: the packet to retransmit, and on acceptance the next seq_bit and no send in progress (R111, R112). -/
structure Judged (e : Sender) (v : SenderVerdict) (e' : Sender) : Prop where
  datagram : e'.datagram = e.datagram
  seqBit : e'.seqBit = if v = .accept then 1 - e.seqBit else e.seqBit
  inFlight : e'.inFlight = if v = .accept then none else e.inFlight
  acknowledged : v = .accept → e'.acknowledged = true

theorem judge_judged (p : HostParams) (d : Datagram) (e : Sender) :
    ∃ v e', e.judge p d = .next (v, e') ∧ Judged e v e' := by
  by_cases hd : d.length ≤ Config.maxPktLen
  · obtain ⟨b₁, -, hb₁, -, hb₃, h⟩ := judge_of_presentable p hd e
    split at h
    · exact ⟨_, _, h, hb₁.tx, rfl, rfl, nofun⟩
    · split at h
      · exact ⟨_, _, h, hb₃.tx, rfl, rfl, fun _ => rfl⟩
      · exact ⟨_, _, h, hb₃.tx, rfl, rfl, nofun⟩
  · exact ⟨.ignore, e, by rw [Sender.judge, if_neg (mt (presentable_iff d).1 hd)], rfl, rfl, rfl, nofun⟩

/-- R112 with HOST_DISCARD_MALFORMED false. -/
theorem judge_accept_iff {p : HostParams} (hp : p.discardMalformed = false) {d : Datagram} (hd : d.length ≤ Config.maxPktLen)
    {e e' : Sender} {v : SenderVerdict} (h : e.judge p d = .next (v, e')) :
    v = .accept ↔ 12 ≤ d.length ∧ packetChecksum d = (d.getD 8 0 ++ d.getD 9 0 : Word) ∧
      (d.getD 11 0).toNat / 2 % 2 = 1 ∧ (d.getD 11 0).toNat % 2 = e.seqBit.toNat := by
  obtain ⟨b₁, h₁, hb₁, hb₂, -, hj⟩ := judge_of_presentable p hd e
  have hv : v = .accept ↔ readRes b₁ = 1 ∧ readRes (extractBit flagsAck b₁) = 1 ∧
      readRes (extractBit flagsSeq (extractBit flagsAck b₁)) = bitWord e.seqBit := by
    rw [hj, hp, Bool.false_and, if_neg Bool.false_ne_true] at h
    split at h
    · cases h
      simpa [accepted] using ‹accepted .. = true›
    · cases h
      simpa [accepted] using ‹¬ accepted .. = true›
  have valid_iff := (holding_presented hd e.block).holdsChecksum_iff
  rw [hv]
  obtain ⟨valid, res⟩ | ⟨invalid, res⟩ := readRes_verify_cases h₁
  · obtain ⟨whole, csum⟩ := valid_iff.1 valid
    rw [res, hb₁.readRes_extack_eq_one_iff whole, hb₂.readRes_extseq_eq_iff whole]
    simp [whole, csum]
  · rw [res]
    exact iff_of_false (fun h => absurd h.1 (by decide)) fun h => invalid (valid_iff.2 ⟨h.1, h.2.1⟩)

/-- Settles O53: the three answers the sender reads are the checksum's, ack_bit's and seq_bit's. -/
theorem senderAcceptsExactlyItsAck : Obligations.SenderAcceptsExactlyItsAck := by
  intro p d e hp hd
  obtain ⟨v, e', h, judged⟩ := judge_judged p d e
  exact ⟨v, e', h, judge_accept_iff hp hd h, judged.seqBit, judged.acknowledged, judged.inFlight, judged.datagram⟩

/-! ### Waiting -/

theorem handle_judged (p : HostParams) (ev : SenderEvent) (e : Sender) :
    ∃ v e', e.handle p ev = .next (v, e') ∧ Judged e v e' := by
  cases ev with
  | timeout => exact ⟨.retry, e, rfl, rfl, rfl, rfl, nofun⟩
  | datagram d => exact judge_judged p d e

/-- What waiting in a send leaves: every retransmission is the packet in TX, and seq_bit and the send in progress are as the
result says (R110, R111, R121). -/
structure Awaited (e : Sender) (run : SendRun) : Prop where
  sent : ∀ d ∈ run.sent, d = e.datagram
  seqBit : run.sender.seqBit = if run.result = .success then 1 - e.seqBit else e.seqBit
  ne_busy : run.result ≠ .busy
  inFlight : run.sender.inFlight ≠ none ↔ run.result = .waiting

/-- Only TX and seq_bit of the sender that waits enter into what waiting leaves. -/
theorem Awaited.of_same {e e' : Sender} {run : SendRun} (h : Awaited e' run) (hd : e'.datagram = e.datagram)
    (hq : e'.seqBit = e.seqBit) : Awaited e run :=
  ⟨hd ▸ h.sent, hq ▸ h.seqBit, h.ne_busy, h.inFlight⟩

theorem Awaited.cons_sent {e : Sender} {run : SendRun} (h : Awaited e run) :
    Awaited e { run with sent := e.datagram :: run.sent } :=
  ⟨List.forall_mem_cons.2 ⟨rfl, h.sent⟩, h.seqBit, h.ne_busy, h.inFlight⟩

/-- By induction on the events: an attempt not acknowledged goes on with the same packet and the same seq_bit. -/
theorem await_awaited (p : HostParams) (evs : List SenderEvent) (e : Sender) (he : e.inFlight ≠ none) :
    ∃ run, e.await p evs = .next run ∧ Awaited e run := by
  induction evs generalizing e with
  | nil => exact ⟨_, rfl, nofun, rfl, nofun, by simpa using he⟩
  | cons ev rest ih =>
    obtain ⟨v, e', h, judged⟩ := handle_judged p ev e
    rw [Sender.await, h, andThen_next]
    cases v with
    | accept => exact ⟨_, rfl, nofun, judged.seqBit, nofun, by simp [judged.inFlight]⟩
    | ignore =>
      obtain ⟨run, hrun, awaited⟩ := ih e' (by simpa [judged.inFlight] using he)
      exact ⟨run, hrun, awaited.of_same judged.datagram judged.seqBit⟩
    | retry =>
      dsimp only
      split
      · exact ⟨_, rfl, nofun, judged.seqBit, nofun, by simp⟩
      · obtain ⟨run, hrun, awaited⟩ := ih e'.retransmit (by simp)
        rw [hrun, andThen_next]
        have awaited' : Awaited e' run := awaited.of_same (retransmit_datagram e') (retransmit_seqBit e')
        exact ⟨_, rfl, awaited'.cons_sent.of_same judged.datagram judged.seqBit⟩

/-! ### One send -/

/-- The sender right after its one BUILD left the block as b (R111). -/
def Sender.begun (b : State) (e : Sender) : Sender := { e with block := b, acknowledged := false, inFlight := some 0 }

/-- A send does not begin while another is in progress (R121) or when its payload does not fit (R68); otherwise it builds once,
transmits the packet, and waits. -/
theorem send_cases {p : HostParams} {m : String} {evs : List SenderEvent} {e : Sender} {run : SendRun}
    (h : e.send p m evs = .next run) :
    (e.inFlight ≠ none ∧ run = ⟨e, .busy, [], evs⟩) ∨
    (e.inFlight = none ∧ payloadFits (p.msgEncoding m) = false ∧ run = ⟨e, .notSent, [], evs⟩) ∨
    (e.inFlight = none ∧ payloadFits (p.msgEncoding m) = true ∧ ∃ b run',
      performAll (loadpay (p.msgEncoding m) ++ [command (.build 0 e.seqBit)]) e.block = .next b ∧
      Awaited (e.begun b) run' ∧ run = { run' with sent := packetBytes .tx b :: run'.sent }) := by
  unfold Sender.send at h
  cases he : e.inFlight with
  | some n => rw [he] at h; cases h; exact .inl ⟨nofun, rfl⟩
  | none =>
    rw [he] at h
    dsimp only at h
    split at h
    · rename_i fits
      obtain ⟨e₁, he₁, h⟩ := andThen_eq_next h
      obtain ⟨b, hb, rfl⟩ := beginSend_eq_next he₁
      obtain ⟨run', hrun, h⟩ := andThen_eq_next h
      cases h
      obtain ⟨_, e', awaited⟩ := await_awaited p evs (e.begun b).transmit nofun
      cases e'.symm.trans hrun
      exact .inr (.inr ⟨rfl, fits, b, _, hb, awaited.of_same rfl rfl, rfl⟩)
    · rename_i fits
      cases h
      exact .inr (.inl ⟨rfl, by simpa using fits, rfl⟩)

/-- Settles O54: a send that begins transmits the packet it built and then only that packet again; one that does not begin
transmits nothing. -/
theorem everyRetransmissionIsIdentical : Obligations.EveryRetransmissionIsIdentical := by
  intro p m evs e run h
  obtain ⟨busy, rfl⟩ | ⟨idle, long, rfl⟩ | ⟨idle, fits, b, run', hb, awaited, rfl⟩ := send_cases h
  · exact ⟨fun h => absurd h.1 busy, fun _ => rfl⟩
  · exact ⟨fun h => absurd (h.2.symm.trans long) nofun, fun _ => rfl⟩
  · exact ⟨fun _ => ⟨b, hb, rfl, List.forall_mem_cons.2 ⟨rfl, awaited.sent⟩⟩,
      fun h => h.elim (absurd idle) fun long => absurd (fits.symm.trans long) nofun⟩

theorem send_of_inFlight (p : HostParams) (m : String) (evs : List SenderEvent) {e : Sender} (h : e.inFlight ≠ none) :
    e.send p m evs = .next ⟨e, .busy, [], evs⟩ := by
  obtain ⟨n, hn⟩ := Option.ne_none_iff_exists'.1 h
  rw [Sender.send, hn]

/-- A send that found none in progress leaves one in progress exactly when it still waits (R121). -/
theorem send_inFlight_iff {p : HostParams} {m : String} {evs : List SenderEvent} {e : Sender} {run : SendRun}
    (he : e.inFlight = none) (h : e.send p m evs = .next run) :
    run.result ≠ .busy ∧ (run.sender.inFlight ≠ none ↔ run.result = .waiting) := by
  obtain ⟨busy, -⟩ | ⟨-, -, rfl⟩ | ⟨-, -, b, run', -, awaited, rfl⟩ := send_cases h
  · exact absurd he busy
  · exact ⟨nofun, by simp [he]⟩
  · exact ⟨awaited.ne_busy, awaited.inFlight⟩

/-- R110: seq_bit alternates with a success and with nothing else. -/
theorem send_seqBit {p : HostParams} {m : String} {evs : List SenderEvent} {e : Sender} {run : SendRun}
    (h : e.send p m evs = .next run) :
    run.sender.seqBit = if run.result = .success then 1 - e.seqBit else e.seqBit := by
  obtain ⟨-, rfl⟩ | ⟨-, -, rfl⟩ | ⟨-, -, b, run', -, awaited, rfl⟩ := send_cases h
  · rfl
  · rfl
  · exact awaited.seqBit

/-! ### Sends in sequence -/

theorem sendAll_cons_cases {p : HostParams} {m : String} {ms : List String} {evs : List SenderEvent} {e : Sender}
    {out : Session} (h : e.sendAll p (m :: ms) evs = .next out) : ∃ run, e.send p m evs = .next run ∧
    ((run.result.over = true ∧ ∃ out', run.sender.sendAll p ms run.rest = .next out' ∧
        out = { out' with runs := run :: out'.runs }) ∨
      (run.result.over = false ∧ out = ⟨run.sender, [run]⟩)) := by
  obtain ⟨run, hrun, h⟩ := andThen_eq_next h
  refine ⟨run, hrun, ?_⟩
  split at h
  · rename_i ended
    obtain ⟨out', hout, h⟩ := andThen_eq_next h
    cases h
    exact .inl ⟨ended, out', hout, rfl⟩
  · rename_i waits
    cases h
    exact .inr ⟨by simpa using waits, rfl⟩

/-- By induction on the messages: a send that is over left none in progress for the next to find. -/
theorem sendAll_results {p : HostParams} {ms : List String} {evs : List SenderEvent} {e : Sender} {out : Session}
    (he : e.inFlight = none) (h : e.sendAll p ms evs = .next out) :
    (∀ run ∈ out.runs, run.result ≠ .busy) ∧ (∀ run ∈ out.runs.dropLast, run.result ≠ .waiting) := by
  induction ms generalizing evs e out with
  | nil => cases h; exact ⟨nofun, nofun⟩
  | cons m ms ih =>
    obtain ⟨run, hrun, ⟨ended, out', hout, rfl⟩ | ⟨-, rfl⟩⟩ := sendAll_cons_cases h
    · obtain ⟨ne_busy, inFlight⟩ := send_inFlight_iff he hrun
      have ne_waiting : run.result ≠ .waiting := fun waiting => by rw [waiting] at ended; cases ended
      obtain ⟨busy, waiting⟩ := ih (not_not.1 (mt inFlight.1 ne_waiting)) hout
      refine ⟨List.forall_mem_cons.2 ⟨ne_busy, busy⟩, fun run' hrun' => ?_⟩
      cases hruns : out'.runs with
      | nil => simp [hruns] at hrun'
      | cons next later =>
        rw [hruns, List.dropLast_cons_cons, List.mem_cons, ← hruns] at hrun'
        exact hrun'.elim (· ▸ ne_waiting) (waiting run')
    · exact ⟨by simpa using (send_inFlight_iff he hrun).1, nofun⟩

/-- Settles O57: a send in progress keeps another from beginning, and each send of a sequence ends before the next. -/
theorem noSendBeginsBeforeThePriorCompletes : Obligations.NoSendBeginsBeforeThePriorCompletes :=
  ⟨fun p m evs _ he => send_of_inFlight p m evs he, fun _ _ _ _ _ he h => send_inFlight_iff he h,
    fun _ _ _ _ _ he h => sendAll_results he h⟩

theorem one_sub_bit_toNat (q : Bit) : (1 - q).toNat = (q.toNat + 1) % 2 := by
  decide +revert

theorem send_seqBit_toNat {p : HostParams} {m : String} {evs : List SenderEvent} {e : Sender} {run : SendRun}
    (h : e.send p m evs = .next run) :
    run.sender.seqBit.toNat = (e.seqBit.toNat + if run.result = .success then 1 else 0) % 2 := by
  have hq := e.seqBit.isLt
  rw [send_seqBit h]
  split
  · exact one_sub_bit_toNat _
  · omega

/-- Settles O58, by induction on the messages. -/
theorem seqBitAlternatesWithEachSuccess : Obligations.SeqBitAlternatesWithEachSuccess := by
  intro p ms
  induction ms with
  | nil =>
    intro evs e out h
    cases h
    exact (Nat.mod_eq_of_lt e.seqBit.isLt).symm
  | cons m ms ih =>
    intro evs e out h
    obtain ⟨run, hrun, rest⟩ := sendAll_cons_cases h
    have one := send_seqBit_toNat hrun
    obtain ⟨-, out', hout, rfl⟩ | ⟨-, rfl⟩ := rest
    · have later := ih _ _ _ hout
      simp only [List.countP_cons, decide_eq_true_eq]
      omega
    · simpa using one

end Sys2Proof.Machine
end

section
/-! PROOF. The reference receiver: what it delivers and answers for one datagram, and its loop over many (spec/60_exceptions.md
R114 to R122). -/

namespace Sys2Proof.Machine

/-! ### The ACK -/

/-- The block after BUILDACK framed the ACK for q (R84). -/
def ackFramed (q : Bit) (s : State) : State := framePacket Config.hdrLen (mkFlags (BitVec.ofNat 14 Config.hdrLen) 1 q) s

/-- The ACK for q that the receiver transmits from s. -/
def ackOf (q : Bit) (s : State) : Datagram := packetBytes .tx (ackFramed q s)

theorem answer_eq_ack (q : Bit) (r : Receiver) :
    r.answer q = .next ({ r with block := ackFramed q r.block }, some (ackOf q r.block)) := answer_eq q r

theorem packetLen_ackFramed (q : Bit) (s : State) : packetLen .tx (ackFramed q s) = 12 :=
  packetLen_framePacket (by decide) ..

theorem ackOf_length (q : Bit) (s : State) : (ackOf q s).length = 12 := by
  rw [ackOf, packetBytes_length, packetLen_ackFramed]

theorem loByte_ackFlags (q : Bit) : loByte (mkFlags (BitVec.ofNat 14 Config.hdrLen) 1 q) = 0x32 ||| q.setWidth 8 := by
  decide +revert

/-- The last byte of an ACK carries its length, ack_bit and seq_bit (R67, R84). -/
theorem ackOf_getD_11 (q : Bit) (s : State) : (ackOf q s).getD 11 0 = (0x32 ||| q.setWidth 8 : Byte) := by
  have hk : 11 < packetLen .tx (ackFramed q s) := by rw [packetLen_ackFramed]; decide
  rw [ackOf, ← readByte_eq_getD hk, ackFramed, readByte_framePacket_11, loByte_ackFlags]

/-- An ACK depends on MAGIC and its seq_bit alone (R84). -/
theorem ackOf_congr (q : Bit) {s s' : State} (h : s.magic = s'.magic) : ackOf q s = ackOf q s' :=
  packetBytes_framePacket_congr h (fun _ hk hlt => absurd hk (Nat.not_le.2 hlt)) (by decide)

/-! ### One datagram -/

/-- The receiver with the datagram counted and placed in RX (R115). -/
def Receiver.received (d : Datagram) (r : Receiver) : Receiver :=
  { r with block := presented d r.block, count := r.count + 1 }

/-- What the receiver does under each verdict with the datagram it received (R115). -/
def Receiver.onVerdict (p : HostParams) (v : FaultVerdict) (r : Receiver) :
    Host.Outcome (Receiver × Option Datagram) Fault Refusal :=
  match v with
  | .drop => .next (r, none)
  | .corrupt => r.answer (1 - r.expected)
  | .pass => r.accept p

theorem onDatagram_of_presentable (p : HostParams) {d : Datagram} (r : Receiver) (hd : d.length ≤ Config.maxPktLen) :
    r.onDatagram p d = (r.received d).onVerdict p (p.faultPolicy (r.count + 1)) := by
  rw [Receiver.onDatagram, if_pos ((presentable_iff d).2 hd), performAll_loadrx d _ hd]; rfl

theorem onDatagram_of_long {p : HostParams} {d : Datagram} {r : Receiver} (hd : ¬ d.length ≤ Config.maxPktLen) :
    r.onDatagram p d = .next ({ r with count := r.count + 1 }, none) :=
  if_neg (mt (presentable_iff d).1 hd)

/-- Settles O56: a dropped datagram is only counted, and for a corrupted one the receiver frames an ACK and no more. -/
theorem droppedAndCorruptedDatagramsDeliverNothing : Obligations.DroppedAndCorruptedDatagramsDeliverNothing := by
  intro p d r hd hp
  rw [onDatagram_of_presentable p r hd]
  cases hv : p.faultPolicy (r.count + 1) with
  | pass => exact absurd hv hp
  | drop => exact ⟨_, _, rfl, rfl, rfl, rfl, fun _ => rfl, nofun⟩
  | corrupt =>
    exact ⟨_, _, answer_eq_ack .., rfl, rfl, rfl, nofun,
      fun _ => ⟨_, rfl, ackOf_length .., ackOf_getD_11 ..⟩⟩

/-! ### A datagram the policy passes -/

/-- Steps 3 to 5, by what VERIFY and EXTSEQ answer (R116 to R118, R120). -/
theorem accept_eq (p : HostParams) (r : Receiver) : ∃ b₁, exec .verify r.block = .next b₁ ∧
    let b₂ := extractBit flagsSeq b₁
    r.accept p =
      if p.discardMalformed && malformed b₁ then .next ({ r with block := b₁ }, none)
      else if readRes b₁ = 0 then .next ({ r with block := ackFramed (1 - r.expected) b₁ }, some (ackOf (1 - r.expected) b₁))
      else if readRes b₂ ≠ bitWord r.expected then
        .next ({ r with block := ackFramed (1 - r.expected) b₂ }, some (ackOf (1 - r.expected) b₂))
      else
        .next ({ r with block := ackFramed r.expected b₂, delivered := r.delivered ++ [receivedPayload b₂],
                        expected := 1 - r.expected }, some (ackOf r.expected b₂)) := by
  obtain ⟨b₁, h₁⟩ := exists_exec_eq_next .verify r.block
  refine ⟨b₁, h₁, ?_⟩
  rw [Receiver.accept, performAll_command, h₁, andThen_next]
  simp only [answer_eq_ack, andThen_next]
  rfl

theorem receivedPayload_eq_drop (s : State) : receivedPayload s = (packetBytes .rx s).drop 12 := by
  refine List.ext_getElem ?_ fun k h₁ h₂ => ?_
  · rw [List.length_drop, packetBytes_length]
    exact readBytes_length ..
  · rw [List.getElem_drop]
    simp only [receivedPayload, packetBytes, readBytes_getElem, Nat.zero_add]
    rfl

section ValidDatagram

variable {p : HostParams} {d : Datagram} {r : Receiver} (hdiscard : p.discardMalformed = false)
  (hpass : p.faultPolicy (r.count + 1) = .pass) (hd : d.length ≤ Config.maxPktLen) (valid : validDatagram d)

include hdiscard hpass hd valid

/-- A valid datagram is judged by its seq_bit alone: the expected one is delivered and acknowledged, the other acknowledged
again (R117, R118). -/
theorem onDatagram_of_valid : ∃ b, Holding d r.block b ∧ r.onDatagram p d =
    if (d.getD 11 0).toNat % 2 = r.expected.toNat then
      .next (⟨ackFramed r.expected b, 1 - r.expected, r.count + 1, r.delivered ++ [d.drop 12]⟩, some (ackOf r.expected b))
    else .next (⟨ackFramed (1 - r.expected) b, r.expected, r.count + 1, r.delivered⟩, some (ackOf (1 - r.expected) b)) := by
  obtain ⟨b₁, h₁, h⟩ := accept_eq p (r.received d)
  have hb := holding_presented hd r.block
  have hb₁ : Holding d r.block b₁ := hb.exec h₁ nofun
  have hb₂ : Holding d r.block (extractBit flagsSeq b₁) := hb₁.exec (i := .extseq) rfl nofun
  have res : readRes b₁ = 1 := by
    obtain ⟨-, res⟩ | ⟨invalid, -⟩ := readRes_verify_cases h₁
    · exact res
    · exact absurd (hb.holdsChecksum_iff.2 valid) invalid
  have seq := hb₁.readRes_extseq_eq_iff valid.1 (r.received d).expected
  refine ⟨_, hb₂, ?_⟩
  rw [onDatagram_of_presentable p r hd, hpass]
  refine h.trans ?_
  rw [hdiscard, Bool.false_and, if_neg Bool.false_ne_true, res, if_neg (by decide), receivedPayload_eq_drop, hb₂.rx]
  by_cases hq : (d.getD 11 0).toNat % 2 = r.expected.toNat
  · rw [if_pos hq, if_neg (not_not.2 (seq.2 hq))]; rfl
  · rw [if_neg hq, if_pos (mt seq.1 hq)]; rfl

end ValidDatagram

/-- Settles O55: the first copy has the expected seq_bit and flips it, so the second has the other one; both ACKs are for the
same seq_bit and so the same packet. -/
theorem duplicatePacketIsDeliveredOnce : Obligations.DuplicatePacketIsDeliveredOnce := by
  intro p d r hdiscard hpass₁ hpass₂ whole hd csum hq
  obtain ⟨b, hb, h⟩ := onDatagram_of_valid hdiscard hpass₁ hd ⟨whole, csum⟩
  rw [if_pos hq] at h
  obtain ⟨b', hb', h'⟩ := onDatagram_of_valid
    (r := ⟨ackFramed r.expected b, 1 - r.expected, r.count + 1, r.delivered ++ [d.drop 12]⟩) hdiscard hpass₂ hd ⟨whole, csum⟩
  have flipped : ¬ (d.getD 11 0).toNat % 2 = (1 - r.expected).toNat := by
    rw [hq, one_sub_bit_toNat]; omega
  have ack : ackOf (1 - (1 - r.expected)) b' = ackOf r.expected b := by
    rw [sub_sub_cancel]
    exact ackOf_congr _ (hb'.magic.trans (framePacket_magic ..))
  rw [if_neg flipped, ack] at h'
  exact ⟨_, _, _, h, h', rfl, rfl, rfl, rfl, rfl, ackOf_length .., ackOf_getD_11 ..⟩

/-! ### Any datagram -/

/-- What one datagram does to the receiver: it is counted, and its payload is delivered and expected_seq_bit flipped, or neither
(R115 to R118, R122). -/
structure Progressed (r r' : Receiver) : Prop where
  count : r'.count = r.count + 1
  delivery : (r'.delivered = r.delivered ∧ r'.expected = r.expected) ∨
    ∃ payload, r'.delivered = r.delivered ++ [payload] ∧ r'.expected = 1 - r.expected

theorem onDatagram_progressed (p : HostParams) (d : Datagram) (r : Receiver) :
    ∃ r' out, r.onDatagram p d = .next (r', out) ∧ Progressed r r' := by
  by_cases hd : d.length ≤ Config.maxPktLen
  · rw [onDatagram_of_presentable p r hd]
    cases p.faultPolicy (r.count + 1) with
    | drop => exact ⟨_, _, rfl, rfl, .inl ⟨rfl, rfl⟩⟩
    | corrupt => exact ⟨_, _, answer_eq_ack .., rfl, .inl ⟨rfl, rfl⟩⟩
    | pass =>
      obtain ⟨b₁, -, h⟩ := accept_eq p (r.received d)
      rw [Receiver.onVerdict, h]
      split_ifs
      · exact ⟨_, _, rfl, rfl, .inl ⟨rfl, rfl⟩⟩
      · exact ⟨_, _, rfl, rfl, .inl ⟨rfl, rfl⟩⟩
      · exact ⟨_, _, rfl, rfl, .inl ⟨rfl, rfl⟩⟩
      · exact ⟨_, _, rfl, rfl, .inr ⟨_, rfl, rfl⟩⟩
  · exact ⟨_, _, onDatagram_of_long hd, rfl, .inl ⟨rfl, rfl⟩⟩

/-! ### The receive loop -/

theorem serve_datagram {p : HostParams} {d : Datagram} {r r' : Receiver} {out : Option Datagram}
    (h : r.onDatagram p d = .next (r', out)) (evs : List ReceiverEvent) :
    r.serve p (.datagram d :: evs) = andThen (r'.serve p evs) fun run => .next { run with sent := out.toList ++ run.sent } := by
  rw [Receiver.serve, h]; rfl

theorem exists_serve_eq_next (p : HostParams) (evs : List ReceiverEvent) (r : Receiver) : ∃ run, r.serve p evs = .next run := by
  induction evs generalizing r with
  | nil => exact ⟨_, rfl⟩
  | cons ev rest ih =>
    cases ev with
    | interrupt => exact ⟨_, rfl⟩
    | datagram d =>
      obtain ⟨r', out, h, -⟩ := onDatagram_progressed p d r
      obtain ⟨run, hrun⟩ := ih r'
      exact ⟨_, by rw [serve_datagram h, hrun]; rfl⟩

/-- Settles O60, by induction on the datagrams. -/
theorem expectedBitFlipsWithEachDelivery : Obligations.ExpectedBitFlipsWithEachDelivery := by
  intro p ds
  induction ds with
  | nil =>
    intro r
    exact ⟨_, [], rfl, rfl, (List.append_nil _).symm, (Nat.mod_eq_of_lt r.expected.isLt).symm⟩
  | cons d ds ih =>
    intro r
    obtain ⟨r', out, h, count, delivery⟩ := onDatagram_progressed p d r
    obtain ⟨run, payloads, hrun, count', delivered', expected'⟩ := ih r'
    have serve : r.serve p ((d :: ds).map .datagram) = .next { run with sent := out.toList ++ run.sent } := by
      rw [List.map_cons, serve_datagram h, hrun]; rfl
    have counted : run.receiver.count = r.count + (d :: ds).length := by
      rw [count', count, List.length_cons]; omega
    obtain ⟨delivered, expected⟩ | ⟨payload, delivered, expected⟩ := delivery
    · exact ⟨_, payloads, serve, counted, delivered ▸ delivered', expected ▸ expected'⟩
    · refine ⟨_, payload :: payloads, serve, counted, ?_, ?_⟩
      · rw [delivered', delivered, List.append_assoc]; rfl
      · rw [expected', expected, one_sub_bit_toNat, List.length_cons]; omega

/-- R119: serving on from where an uninterrupted loop stands is serving the whole. -/
theorem serve_append (p : HostParams) {xs : List ReceiverEvent} (ys : List ReceiverEvent) (r : Receiver)
    (hxs : .interrupt ∉ xs) : r.serve p (xs ++ ys) = andThen (r.serve p xs) fun a => andThen (a.receiver.serve p ys) fun b =>
      .next { b with sent := a.sent ++ b.sent } := by
  induction xs generalizing r with
  | nil =>
    obtain ⟨b, hb⟩ := exists_serve_eq_next p ys r
    rw [List.nil_append, Receiver.serve, andThen_next, hb]; rfl
  | cons ev xs ih =>
    cases ev with
    | interrupt => exact absurd List.mem_cons_self hxs
    | datagram d =>
      obtain ⟨r', out, h, -⟩ := onDatagram_progressed p d r
      obtain ⟨a, ha⟩ := exists_serve_eq_next p xs r'
      obtain ⟨b, hb⟩ := exists_serve_eq_next p ys a.receiver
      rw [List.cons_append, serve_datagram h, serve_datagram h, ih r' (mt (List.mem_cons_of_mem _) hxs), ha]
      simp only [andThen_next, hb, List.append_assoc]

/-- Settles O59: the loop over a whole list is the loop over its first part, then over the rest; over a rest that begins with an
interrupt it ends at once. -/
theorem receiverProcessesEachDatagramFully : Obligations.ReceiverProcessesEachDatagramFully := by
  refine ⟨fun p xs ys r hxs => serve_append p ys r hxs, fun p xs ys r hxs => ?_⟩
  obtain ⟨a, ha⟩ := exists_serve_eq_next p xs r
  rw [serve_append p _ r hxs, ha]
  simp [Receiver.serve]

end Sys2Proof.Machine
end
